-- ==== Sys2Proof/Word.lean ====
section
/-! DEFINITION. The units of the ECE: bytes, 32-bit words and byte arrays of fixed length (00_scope.md R9, R10). -/

namespace Sys2Proof

/-- A byte, an unsigned value 0..255 (R9). -/
abbrev Byte := BitVec 8

/-- A word, a 32-bit unsigned value (R10). -/
abbrev Word := BitVec 32

/-- A byte array of fixed length `n`, index 0 first (R9). -/
abbrev Bytes (n : Nat) := Vector Byte n

/-- `zeros(n)`: `n` bytes of 0x00 (R9). -/
abbrev zeros (n : Nat) : Bytes n := Vector.replicate n 0

end Sys2Proof
end

