-- ==== Sys2Proof/Machine/Bus.lean ====
section
/-! DEFINITION. The register bus: the names of the registers (10_state.md R43) and the transactions a bus master can
present (R40). -/

namespace Sys2Proof.Machine

/-- The registers of the map of R43. `k` is the word index within a group. -/
inductive RegName where
  | id
  | cfg
  | cmd
  | status
  | errcode
  | errflags
  | intEn
  | intStatus
  | key (k : Fin 8)
  | iv (k : Fin 4)
  | din (k : Fin 4)
  | dout (k : Fin 4)
  | doutLen
  | hcountLo
  | hcountHi
  | ck (k : Fin 8)
  | exp (k : Fin 8)
  | expLen
  | digest (k : Fin 8)
  deriving DecidableEq, Repr

/-- The `size` port: 1, 2 or 4 bytes (R40). -/
inductive BusSize where
  | one
  | two
  | four
  deriving DecidableEq, Repr

/-- One bus transaction as the master presents it: direction, `addr[11:0]`, `size` and `wdata` (R40). -/
inductive BusOp where
  | read (off : BitVec 12) (size : BusSize)
  | write (off : BitVec 12) (size : BusSize) (v : Word)
  deriving DecidableEq, Repr

/-- The responses of the bus port: `rdata[31:0]` and `err` (R40). What `rdata` carries in the response to a write is not in
the spec (log entry 27). -/
structure BusResponse where
  rdata : Word
  err : Bool
  deriving DecidableEq, Repr

/-- The offset a transaction is presented at. -/
def BusOp.offset : BusOp → BitVec 12
  | .read off _ => off
  | .write off _ _ => off

/-- The size a transaction is presented with. -/
def BusOp.size : BusOp → BusSize
  | .read _ size => size
  | .write _ size _ => size

/-- The one legal form of an access: 32 bits at an offset that is a multiple of 4 (R104, R108). Every other form gets
a bus error. -/
def BusOp.aligned (b : BusOp) : Bool :=
  b.size == .four && b.offset.toNat % 4 == 0

end Sys2Proof.Machine
end

