-- ==== Sys2Proof/Syntax.lean ====
section
/-! DEFINITION. The eight commands of the opcode map (30_encoding.md R141): what the host can write to `CMD`. A
command has no operand field (R140, R146), so the constructors take no argument. -/

namespace Sys2Proof

/-- A command of the engine, one constructor per row of the opcode table (R141). -/
inductive Instr where
  /-- `NOP`, word 0x0000_0000 (R204). -/
  | nop
  /-- `SOFT_RESET`, word 0x0000_0001 (R221). -/
  | softReset
  /-- `INIT_STREAM`, word 0x0000_0002 (R282). -/
  | initStream
  /-- `DECRYPT_BLOCK`, word 0x0000_0003 (R285). -/
  | decryptBlock
  /-- `DECRYPT_FINAL`, word 0x0000_0004 (R290). -/
  | decryptFinal
  /-- `CK_DECRYPT`, word 0x0000_0005 (R250). -/
  | ckDecrypt
  /-- `COMPARE`, word 0x0000_0006 (R340). -/
  | compare
  /-- `ERR_CLEAR`, word 0x0000_0007 (R222). -/
  | errClear
  deriving DecidableEq, Repr

end Sys2Proof
end

