-- ==== Sys2Proof/Decode.lean ====
section
/-! DEFINITION. Decoding and encoding of command words (30_encoding.md R140 to R143) and of register offsets (R145). -/

namespace Sys2Proof

/-- Why a `CMD` word is illegal (R142). -/
inductive DecodeError where
  /-- `MBZ`, bits [31:8], is not zero. -/
  | mbzNotZero (w : Word)
  /-- `OPCODE`, bits [7:0], is in 0x08..0xFF. -/
  | opcodeNotAssigned (op : Byte)
  deriving DecidableEq, Repr

/-- `OPCODE`, bits [7:0] of a command word (R140). -/
def opcodeField (w : Word) : Byte := w.extractLsb' 0 8

/-- `MBZ`, bits [31:8] of a command word (R140). -/
def mbzField (w : Word) : BitVec 24 := w.extractLsb' 8 24

/-- The opcode map of R141. -/
def decodeOpcode (op : Byte) : Except DecodeError Instr :=
  match op.toNat with
  | 0 => .ok .nop
  | 1 => .ok .softReset
  | 2 => .ok .initStream
  | 3 => .ok .decryptBlock
  | 4 => .ok .decryptFinal
  | 5 => .ok .ckDecrypt
  | 6 => .ok .compare
  | 7 => .ok .errClear
  | _ => .error (.opcodeNotAssigned op)

/-- The command a word written to `CMD` stands for, or why it stands for none (R141, R142). -/
def decode (w : Word) : Except DecodeError Instr :=
  if mbzField w = 0 then decodeOpcode (opcodeField w) else .error (.mbzNotZero w)

/-- The word of a command (R141). -/
def encode : Instr → Word
  | .nop => 0x00000000
  | .softReset => 0x00000001
  | .initStream => 0x00000002
  | .decryptBlock => 0x00000003
  | .decryptFinal => 0x00000004
  | .ckDecrypt => 0x00000005
  | .compare => 0x00000006
  | .errClear => 0x00000007

/-- A command word made of the `nbits` low bits of `w`, the bits above them zero. -/
def commandWord (nbits w : Nat) : Word := BitVec.ofNat 32 (w % 2 ^ nbits)

/-- The instruction the decoder reads from the word whose bits are `w`. A command is one 32-bit bus word (R140), so the
table's bit 0 is bit 0 of `wdata`, and what does not fit in `wdata` is no command. -/
def decodeTableWord (nbits w : Nat) : Option Instr :=
  if w % 2 ^ nbits < 2 ^ 32 then (decode (commandWord nbits w)).toOption else none

namespace Machine

/-- Offset of a register in the window (R43). -/
def offsetOf : RegName → BitVec 12
  | .id => 0x000
  | .cfg => 0x004
  | .cmd => 0x008
  | .status => 0x00C
  | .errcode => 0x010
  | .errflags => 0x014
  | .intEn => 0x018
  | .intStatus => 0x01C
  | .key k => BitVec.ofNat 12 (0x020 + 4 * k.val)
  | .iv k => BitVec.ofNat 12 (0x040 + 4 * k.val)
  | .din k => BitVec.ofNat 12 (0x050 + 4 * k.val)
  | .dout k => BitVec.ofNat 12 (0x060 + 4 * k.val)
  | .doutLen => 0x070
  | .hcountLo => 0x074
  | .hcountHi => 0x078
  | .ck k => BitVec.ofNat 12 (0x080 + 4 * k.val)
  | .exp k => BitVec.ofNat 12 (0x0A0 + 4 * k.val)
  | .expLen => 0x0C0
  | .digest k => BitVec.ofNat 12 (0x0E0 + 4 * k.val)

/-- The register at byte offset `4 * n` of the window, `none` at the reserved offsets (R70, R145). The rows are tested in
the order of their offsets, so each test of a group needs only the group's end. -/
def regAtWord (n : Nat) : Option RegName :=
  if n = 0x000 / 4 then some .id
  else if n = 0x004 / 4 then some .cfg
  else if n = 0x008 / 4 then some .cmd
  else if n = 0x00C / 4 then some .status
  else if n = 0x010 / 4 then some .errcode
  else if n = 0x014 / 4 then some .errflags
  else if n = 0x018 / 4 then some .intEn
  else if n = 0x01C / 4 then some .intStatus
  else if h : n - 0x020 / 4 < 8 then some (.key ⟨n - 0x020 / 4, h⟩)
  else if h : n - 0x040 / 4 < 4 then some (.iv ⟨n - 0x040 / 4, h⟩)
  else if h : n - 0x050 / 4 < 4 then some (.din ⟨n - 0x050 / 4, h⟩)
  else if h : n - 0x060 / 4 < 4 then some (.dout ⟨n - 0x060 / 4, h⟩)
  else if n = 0x070 / 4 then some .doutLen
  else if n = 0x074 / 4 then some .hcountLo
  else if n = 0x078 / 4 then some .hcountHi
  else if n = 0x07C / 4 then none
  else if h : n - 0x080 / 4 < 8 then some (.ck ⟨n - 0x080 / 4, h⟩)
  else if h : n - 0x0A0 / 4 < 8 then some (.exp ⟨n - 0x0A0 / 4, h⟩)
  else if n = 0x0C0 / 4 then some .expLen
  else if n < 0x0E0 / 4 then none
  else if h : n - 0x0E0 / 4 < 8 then some (.digest ⟨n - 0x0E0 / 4, h⟩)
  else none

/-- The register an access at `off` reaches: the whole 12-bit offset is decoded (R145). An offset that is no multiple of
4 is a bus error before any decoding (R104) and names no register. -/
def regAt (off : BitVec 12) : Option RegName :=
  if off.toNat % 4 = 0 then regAtWord (off.toNat / 4) else none

end Machine

end Sys2Proof
end

