-- ==== Sys2Proof/Machine/Aes.lean ====
section
/-! DEFINITION. The AES-256 inverse cipher (44_aes256.md). -/

namespace Sys2Proof.Machine.Aes

/-- Multiplication by 0x02 in GF(2^8) (R371). -/
def xtime (a : Byte) : Byte := (a <<< 1) ^^^ (if a.getLsbD 7 then 0x1B else 0x00)

/-- The product of `a` and the low `n` bits of `b` (R371): the sum of `xtime^i(a)` over the set bits `i`. -/
def gmulBits : Nat → Byte → Byte → Byte
  | 0, _, _ => 0
  | n + 1, a, b => (if b.getLsbD 0 then a else 0) ^^^ gmulBits n (xtime a) (b >>> 1)

/-- `a • b`, multiplication in GF(2^8) modulo 0x11B (R371). -/
def gmul (a b : Byte) : Byte := gmulBits 8 a b

/-- Entry `a` of a 16 by 16 table given as its 16 rows, each row's column 0 the most significant byte, as R372 and R373
print them: the row is the high hex digit of `a`, the column the low one. -/
def tableEntry (rows : List (BitVec 128)) (a : Byte) : Byte :=
  (rows.getD (a.toNat / 16) 0).extractLsb' (8 * (15 - a.toNat % 16)) 8

/-- The S-box table of R372, rows 0 to f. -/
def sboxRows : List (BitVec 128) :=
  [0x637c777bf26b6fc53001672bfed7ab76, 0xca82c97dfa5947f0add4a2af9ca472c0,
   0xb7fd9326363ff7cc34a5e5f171d83115, 0x04c723c31896059a071280e2eb27b275] ++
  [0x09832c1a1b6e5aa0523bd6b329e32f84, 0x53d100ed20fcb15b6acbbe394a4c58cf,
   0xd0efaafb434d338545f9027f503c9fa8, 0x51a3408f929d38f5bcb6da2110fff3d2] ++
  [0xcd0c13ec5f974417c4a77e3d645d1973, 0x60814fdc222a908846eeb814de5e0bdb,
   0xe0323a0a4906245cc2d3ac629195e479, 0xe7c8376d8dd54ea96c56f4ea657aae08] ++
  [0xba78252e1ca6b4c6e8dd741f4bbd8b8a, 0x703eb5664803f60e613557b986c11d9e,
   0xe1f8981169d98e949b1e87e9ce5528df, 0x8ca1890dbfe6426841992d0fb054bb16]

/-- The inverse S-box table of R373, rows 0 to f. -/
def invSboxRows : List (BitVec 128) :=
  [0x52096ad53036a538bf40a39e81f3d7fb, 0x7ce339829b2fff87348e4344c4dee9cb,
   0x547b9432a6c2233dee4c950b42fac34e, 0x082ea16628d924b2765ba2496d8bd125] ++
  [0x72f8f66486689816d4a45ccc5d65b692, 0x6c704850fdedb9da5e154657a78d9d84,
   0x90d8ab008cbcd30af7e45805b8b34506, 0xd02c1e8fca3f0f02c1afbd0301138a6b] ++
  [0x3a9111414f67dcea97f2cfcef0b4e673, 0x96ac7422e7ad3585e2f937e81c75df6e,
   0x47f11a711d29c5896fb7620eaa18be1b, 0xfc563e4bc6d279209adbc0fe78cd5af4] ++
  [0x1fdda8338807c731b11210592780ec5f, 0x60517fa919b54a0d2de57a9f93c99cef,
   0xa0e03b4dae2af5b0c8ebbb3c83539961, 0x172b047eba77d626e169146355210c7d]

/-- `SBox(a)` (R372). -/
def sbox (a : Byte) : Byte := tableEntry sboxRows a

/-- `InvSBox(a)` (R373). -/
def invSbox (a : Byte) : Byte := tableEntry invSboxRows a

/-- `SubWord`: `SBox` on each of the four bytes (R374). -/
def subWord (w : Bytes 4) : Bytes 4 := #v[sbox w[0], sbox w[1], sbox w[2], sbox w[3]]

/-- `RotWord([a0,a1,a2,a3]) = [a1,a2,a3,a0]` (R374). -/
def rotWord (w : Bytes 4) : Bytes 4 := #v[w[1], w[2], w[3], w[0]]

/-- Bytewise exclusive-or of two words of the key schedule (R9). -/
def xorWord (v w : Bytes 4) : Bytes 4 := #v[v[0] ^^^ w[0], v[1] ^^^ w[1], v[2] ^^^ w[2], v[3] ^^^ w[3]]

/-- `xtime^n(a)`. -/
def xtimeIter : Nat → Byte → Byte
  | 0, a => a
  | n + 1, a => xtime (xtimeIter n a)

/-- `Rcon(j) = xtime^(j-1)(0x01)` for `j ≥ 1` (R375). -/
def rcon (j : Nat) : Byte := xtimeIter (j - 1) 0x01

/-- The word `t` that step `i` of the key expansion adds to `w[i-8]`, from `w[i-1]` (R374). -/
def scheduleCore (i : Nat) (t : Bytes 4) : Bytes 4 :=
  if i % 8 = 0 then xorWord (subWord (rotWord t)) #v[rcon (i / 8), 0, 0, 0]
  else if i % 8 = 4 then subWord t
  else t

/-- Steps `i`, `i+1`, … of the key expansion, `n` of them, on the words computed so far, newest first (R374). -/
def expandFrom : Nat → Nat → List (Bytes 4) → List (Bytes 4)
  | 0, _, ws => ws
  | n + 1, i, ws =>
    expandFrom n (i + 1) (xorWord (ws.getD 7 (zeros 4)) (scheduleCore i (ws.getD 0 (zeros 4))) :: ws)

/-- The first eight words, `w[i] = K[4i .. 4i+4)` (R374). -/
def keyWords (k : Bytes 32) : List (Bytes 4) :=
  [#v[k[0], k[1], k[2], k[3]], #v[k[4], k[5], k[6], k[7]], #v[k[8], k[9], k[10], k[11]],
   #v[k[12], k[13], k[14], k[15]], #v[k[16], k[17], k[18], k[19]], #v[k[20], k[21], k[22], k[23]],
   #v[k[24], k[25], k[26], k[27]], #v[k[28], k[29], k[30], k[31]]]

/-- `KeyExpansion(K)`: the sixty words `w[0..60)` (R374). -/
def keyExpansion (k : Bytes 32) : List (Bytes 4) := (expandFrom 52 8 (keyWords k).reverse).reverse

/-- `AddRoundKey(s, w, r)`: `s'[j][c] = s[j][c] xor w[4r + c][j]`; index `j + 4c` of the block is row `j` of column `c`
(R376, R380). -/
def addRoundKey (s : Bytes 16) (w : List (Bytes 4)) (r : Nat) : Bytes 16 :=
  Vector.ofFn fun i => s[i] ^^^ (w.getD (4 * r + i.val / 4) (zeros 4))[i.val % 4]

/-- `InvShiftRows`: `s'[r][(c + r) mod 4] = s[r][c]` (R377), so index `r + 4c` takes row `r` of column `c - r`. -/
def invShiftRows (s : Bytes 16) : Bytes 16 :=
  Vector.ofFn fun i => s[i.val % 4 + 4 * ((i.val / 4 + 4 - i.val % 4) % 4)]

/-- `InvSubBytes` (R378). -/
def invSubBytes (s : Bytes 16) : Bytes 16 := Vector.ofFn fun i => invSbox s[i]

/-- One byte of `InvMixColumns`: the column's bytes times the four coefficients of its row (R379). -/
def mixRow (m0 m1 m2 m3 a0 a1 a2 a3 : Byte) : Byte := gmul m0 a0 ^^^ gmul m1 a1 ^^^ gmul m2 a2 ^^^ gmul m3 a3

/-- Row `r` of the result of `InvMixColumns` on a column (R379). -/
def invMixByte (r : Nat) (a0 a1 a2 a3 : Byte) : Byte :=
  match r with
  | 0 => mixRow 0x0e 0x0b 0x0d 0x09 a0 a1 a2 a3
  | 1 => mixRow 0x09 0x0e 0x0b 0x0d a0 a1 a2 a3
  | 2 => mixRow 0x0d 0x09 0x0e 0x0b a0 a1 a2 a3
  | _ => mixRow 0x0b 0x0d 0x09 0x0e a0 a1 a2 a3

/-- `InvMixColumns` (R379). -/
def invMixColumns (s : Bytes 16) : Bytes 16 :=
  Vector.ofFn fun i =>
    invMixByte (i.val % 4) s[4 * (i.val / 4)] s[4 * (i.val / 4) + 1] s[4 * (i.val / 4) + 2] s[4 * (i.val / 4) + 3]

/-- The inverse rounds `r`, `r-1`, …, 1 (R370). -/
def invRounds (w : List (Bytes 4)) : Nat → Bytes 16 → Bytes 16
  | 0, s => s
  | r + 1, s => invRounds w r (invMixColumns (addRoundKey (invSubBytes (invShiftRows s)) w (r + 1)))

/-- `AESDec256(K, C)` with the 14 rounds of R370; `State` and `Bytes` of R376 are the identity on the column-by-column
block. -/
def aesDec256 (k : Bytes 32) (c : Bytes 16) : Bytes 16 :=
  let w := keyExpansion k
  addRoundKey (invSubBytes (invShiftRows (invRounds w 13 (addRoundKey c w 14)))) w 0

end Sys2Proof.Machine.Aes
end

