-- ==== Sys2Proof/Config.lean ====
section
/-! DEFINITION. The implementation parameters of 00_scope.md R7. A parameter the spec leaves OPEN is a constant
without a body, so nothing can be proved of its value; `HASH_ALG` is a field of the state (`State.hashAlg`), and the
host's OPEN parameters are arguments of a run (`RunRequest`). -/

namespace Sys2Proof

/-- `HASH_ALG`, the build parameter that selects the content hash (R7, R46, R335). -/
inductive HashAlg where
  | sha1
  | sha256
  deriving DecidableEq, Repr

/-- `HASH_LEN` in bytes: 20 for SHA-1, 32 for SHA-256 (R7). -/
def HashAlg.hashLen : HashAlg → Nat
  | .sha1 => 20
  | .sha256 => 32

namespace Config

/-- `BLOCK`, the AES block in bytes (R7). -/
def blockLen : Nat := 16

/-- `CK_LEN`, the trailing checksum in bytes (R7). -/
def ckLen : Nat := 32

/-- `CHUNK_SIZE` of the host in bytes, 128 KiB (R7). -/
def chunkSize : Nat := 131072

/-- `IV_OFFSET` of the container (R7, R155). -/
def ivOffset : Nat := 0x43

/-- `DATA_OFFSET` of the container (R7, R155). -/
def dataOffset : Nat := 0xA3

/-- The 4 KiB page the platform gives the register window. OPEN (R7, D5): a free value. -/
opaque ecePage : Nat

/-- `ECE_BASE`, any 4 KiB-aligned address (R7, D5). -/
def eceBase : Nat := ecePage * 0x1000

/-- `ECE_IRQ`, the platform interrupt line that `irq` drives. OPEN (R7, R546): a free value. -/
opaque eceIrq : Nat

/-- What `LAT_<cmd>` exceeds 1 by, for the command of this opcode. OPEN (R7, R597): a free value. -/
opaque latencyBeyondOne : Nat → Nat

/-- `LAT_<cmd>` in clock cycles for the command of opcode `op`: finite and at least 1 (R7, R597). No step of the
model reads it: R208 lets no rule depend on a cycle count. -/
def latency (op : Nat) : Nat := latencyBeyondOne op + 1

/-- What the exit status of a failed run exceeds 1 by, for each kind of error. R494 says only that it is non-zero:
a free value. -/
opaque failureStatusBeyondOne : Nat → Nat

end Config

end Sys2Proof
end

