-- ==== Sys2Proof/Machine/Hash.lean ====
section
/-! DEFINITION. The hash functions (45_hash_functions.md): SHA-1 and SHA-256, which the accumulator runs, and the SHA-512
of the host. SHA-256 and SHA-512 are one algorithm over two word widths (R443 runs the loop of R435). -/

namespace Sys2Proof.Machine

/-- `HSTATE`, the chaining value of the content hash: five words for SHA-1, eight for SHA-256 (R77). -/
inductive HashState where
  | sha1 (h : Vector Word 5)
  | sha256 (h : Vector Word 8)
  deriving DecidableEq, Repr

/-- The algorithm a chaining value belongs to. -/
def HashState.alg : HashState → HashAlg
  | .sha1 _ => .sha1
  | .sha256 _ => .sha256

/-- The bytes as one number, the first byte the most significant (R420). -/
def bigEndian (w : Nat) : List Byte → BitVec w
  | [] => 0
  | b :: bs => (b.setWidth w <<< (8 * bs.length)) ||| bigEndian w bs

/-- Big-endian word `t` of a block, a word being `n` bytes and `w` bits (R420). -/
def blockWord (w n : Nat) (b : List Byte) (t : Nat) : BitVec w := bigEndian w ((b.drop (n * t)).take n)

/-- The `n` bytes of a word, most significant first (R420). -/
def wordBytes {w : Nat} (n : Nat) (x : BitVec w) : List Byte :=
  (List.range n).map fun j => x.extractLsb' (8 * (n - 1 - j)) 8

/-- The words `W_0 .. W_15` of a block, newest first. -/
def firstWords (w n : Nat) (b : List Byte) : List (BitVec w) := ((List.range 16).map (blockWord w n b)).reverse

/-- `m` further words of a message schedule, newest first; `next` gives the next word from those so far. -/
def extendSchedule {w : Nat} (next : List (BitVec w) → BitVec w) : Nat → List (BitVec w) → List (BitVec w)
  | 0, ws => ws
  | m + 1, ws => extendSchedule next m (next ws :: ws)

/-- Word `i` of `n` in a row of hex digits as the spec prints it, its leftmost word first. -/
def printedWord (w n row i : Nat) : BitVec w := BitVec.ofNat w (row >>> (w * (n - 1 - i)))

/-- The words of a printed table whose rows hold `n` words each, left to right and then top to bottom (R431, R441). -/
def printedTable (w n : Nat) (rows : List Nat) : List (BitVec w) :=
  rows.flatMap fun row => (List.range n).map (printedWord w n row)

/-- The `n` words of a printed row. -/
def printedRow (w n row : Nat) : Vector (BitVec w) n := Vector.ofFn fun i => printedWord w n row i.val

/-- The working variables after a round that gives each one the value of the one before it, and the first one `x`. -/
def shiftIn {w n : Nat} (x : BitVec w) (v : Vector (BitVec w) n) : Vector (BitVec w) n :=
  Vector.ofFn fun i => if i.val = 0 then x else v[i.val - 1]

/-- Word by word addition, the end of every `Compress` (R425, R435, R443). -/
def addWords {w n : Nat} (h v : Vector (BitVec w) n) : Vector (BitVec w) n := Vector.ofFn fun i => h[i] + v[i]

/-- `Ch`: where `x` has a 1 the bit of `y`, elsewhere that of `z` (R421, R430). -/
def hashCh {w : Nat} (x y z : BitVec w) : BitVec w := (x &&& y) ^^^ (~~~x &&& z)

/-- `Parity` (R421). -/
def hashParity {w : Nat} (x y z : BitVec w) : BitVec w := x ^^^ y ^^^ z

/-- `Maj`: the bit that at least two of the three have (R421, R430). -/
def hashMaj {w : Nat} (x y z : BitVec w) : BitVec w := (x &&& y) ^^^ (x &&& z) ^^^ (y &&& z)

/-! ### SHA-1 -/

/-- `f_t(b, c, d)` (R421). -/
def sha1F (t : Nat) : Word → Word → Word → Word :=
  if t < 20 then hashCh else if 40 ≤ t ∧ t < 60 then hashMaj else hashParity

/-- `K_t`, one constant for each twenty rounds (R421). -/
def sha1K (t : Nat) : Word := printedWord 32 4 0x5a8279996ed9eba18f1bbcdcca62c1d6 (t / 20)

/-- `H0(SHA1)` (R422). -/
def sha1Init : Vector Word 5 := printedRow 32 5 0x67452301efcdab8998badcfe10325476c3d2e1f0

/-- `W_t = ROTL^1(W_(t-3) ⊕ W_(t-8) ⊕ W_(t-14) ⊕ W_(t-16))` (R423); `ws` holds the words so far, newest first. -/
def sha1NextWord (ws : List Word) : Word :=
  (ws.getD 2 0 ^^^ ws.getD 7 0 ^^^ ws.getD 13 0 ^^^ ws.getD 15 0).rotateLeft 1

/-- The eighty words of SHA-1's schedule, oldest first (R423). -/
def sha1Schedule (b : List Byte) : List Word := (extendSchedule sha1NextWord 64 (firstWords 32 4 b)).reverse

/-- The new `a` of round `t` (R425). -/
def sha1Head (t : Nat) (wt : Word) (v : Vector Word 5) : Word :=
  v[0].rotateLeft 5 + sha1F t v[1] v[2] v[3] + v[4] + sha1K t + wt

/-- Round `t` of SHA-1 on `(a, b, c, d, e)`: a shift, with `c` taking the rotated `b` (R425). -/
def sha1Round (t : Nat) (wt : Word) (v : Vector Word 5) : Vector Word 5 :=
  (shiftIn (sha1Head t wt v) v).set 2 (v[1].rotateLeft 30)

/-- The rounds from round `t` on, one for each remaining word of the schedule (R425). -/
def sha1Rounds : Nat → List Word → Vector Word 5 → Vector Word 5
  | _, [], v => v
  | t, w :: ws, v => sha1Rounds (t + 1) ws (sha1Round t w v)

/-- `Compress(SHA1, H, B)` (R425). -/
def sha1Compress (h : Vector Word 5) (b : List Byte) : Vector Word 5 :=
  addWords h (sha1Rounds 0 (sha1Schedule b) h)

/-! ### SHA-256 and SHA-512 -/

/-- What tells SHA-256 and SHA-512 apart: the word size in bytes, the rotations of Σ0 and Σ1, the two rotations and the
shift of σ0 and σ1, and the constants. -/
structure Sha2 (w : Nat) where
  wordLen : Nat
  rotations0 : Nat × Nat × Nat
  rotations1 : Nat × Nat × Nat
  shifts0 : Nat × Nat × Nat
  shifts1 : Nat × Nat × Nat
  k : List (BitVec w)

/-- `ROTR^r(x) ⊕ ROTR^s(x) ⊕ ROTR^t(x)`, the form of Σ0 and Σ1 (R430, R440). -/
def bigSigma {w : Nat} (r : Nat × Nat × Nat) (x : BitVec w) : BitVec w :=
  x.rotateRight r.1 ^^^ x.rotateRight r.2.1 ^^^ x.rotateRight r.2.2

/-- `ROTR^r(x) ⊕ ROTR^s(x) ⊕ SHR^t(x)`, the form of σ0 and σ1 (R430, R440). -/
def smallSigma {w : Nat} (r : Nat × Nat × Nat) (x : BitVec w) : BitVec w :=
  x.rotateRight r.1 ^^^ x.rotateRight r.2.1 ^^^ (x >>> r.2.2)

/-- The constants of SHA-256, rows as R431 prints them. -/
def sha256K : List Word := printedTable 32 8 <|
  [0x428a2f9871374491b5c0fbcfe9b5dba53956c25b59f111f1923f82a4ab1c5ed5,
   0xd807aa9812835b01243185be550c7dc372be5d7480deb1fe9bdc06a7c19bf174,
   0xe49b69c1efbe47860fc19dc6240ca1cc2de92c6f4a7484aa5cb0a9dc76f988da,
   0x983e5152a831c66db00327c8bf597fc7c6e00bf3d5a7914706ca635114292967] ++
  [0x27b70a852e1b21384d2c6dfc53380d13650a7354766a0abb81c2c92e92722c85,
   0xa2bfe8a1a81a664bc24b8b70c76c51a3d192e819d6990624f40e3585106aa070,
   0x19a4c1161e376c082748774c34b0bcb5391c0cb34ed8aa4a5b9cca4f682e6ff3,
   0x748f82ee78a5636f84c878148cc7020890befffaa4506cebbef9a3f7c67178f2]

/-- SHA-256 (R430, R431). -/
def sha256 : Sha2 32 where
  wordLen := 4
  rotations0 := (2, 13, 22)
  rotations1 := (6, 11, 25)
  shifts0 := (7, 18, 3)
  shifts1 := (17, 19, 10)
  k := sha256K

/-- `H0(SHA256)` (R433). -/
def sha256Init : Vector Word 8 := printedRow 32 8 0x6a09e667bb67ae853c6ef372a54ff53a510e527f9b05688c1f83d9ab5be0cd19

/-- The constants of SHA-512, rows as R441 prints them. -/
def sha512K : List (BitVec 64) := printedTable 64 4 <|
  [0x428a2f98d728ae227137449123ef65cdb5c0fbcfec4d3b2fe9b5dba58189dbbc,
   0x3956c25bf348b53859f111f1b605d019923f82a4af194f9bab1c5ed5da6d8118,
   0xd807aa98a303024212835b0145706fbe243185be4ee4b28c550c7dc3d5ffb4e2,
   0x72be5d74f27b896f80deb1fe3b1696b19bdc06a725c71235c19bf174cf692694,
   0xe49b69c19ef14ad2efbe4786384f25e30fc19dc68b8cd5b5240ca1cc77ac9c65] ++
  [0x2de92c6f592b02754a7484aa6ea6e4835cb0a9dcbd41fbd476f988da831153b5,
   0x983e5152ee66dfaba831c66d2db43210b00327c898fb213fbf597fc7beef0ee4,
   0xc6e00bf33da88fc2d5a79147930aa72506ca6351e003826f142929670a0e6e70,
   0x27b70a8546d22ffc2e1b21385c26c9264d2c6dfc5ac42aed53380d139d95b3df,
   0x650a73548baf63de766a0abb3c77b2a881c2c92e47edaee692722c851482353b] ++
  [0xa2bfe8a14cf10364a81a664bbc423001c24b8b70d0f89791c76c51a30654be30,
   0xd192e819d6ef5218d69906245565a910f40e35855771202a106aa07032bbd1b8,
   0x19a4c116b8d2d0c81e376c085141ab532748774cdf8eeb9934b0bcb5e19b48a8,
   0x391c0cb3c5c95a634ed8aa4ae3418acb5b9cca4f7763e373682e6ff3d6b2b8a3,
   0x748f82ee5defb2fc78a5636f43172f6084c87814a1f0ab728cc702081a6439ec] ++
  [0x90befffa23631e28a4506cebde82bde9bef9a3f7b2c67915c67178f2e372532b,
   0xca273eceea26619cd186b8c721c0c207eada7dd6cde0eb1ef57d4f7fee6ed178,
   0x06f067aa72176fba0a637dc5a2c898a6113f9804bef90dae1b710b35131c471b,
   0x28db77f523047d8432caab7b40c724933c9ebe0a15c9bebc431d67c49c100d4c,
   0x4cc5d4becb3e42b6597f299cfc657e2a5fcb6fab3ad6faec6c44198c4a475817]

/-- SHA-512 (R440, R441). -/
def sha512 : Sha2 64 where
  wordLen := 8
  rotations0 := (28, 34, 39)
  rotations1 := (14, 18, 41)
  shifts0 := (1, 8, 7)
  shifts1 := (19, 61, 6)
  k := sha512K

/-- `H0(SHA512)` (R442). -/
def sha512Init : Vector (BitVec 64) 8 := printedRow 64 8 <|
  0x6a09e667f3bcc908bb67ae8584caa73b3c6ef372fe94f82ba54ff53a5f1d36f1 <<< 256 |||
  0x510e527fade682d19b05688c2b3e6c1f1f83d9abfb41bd6b5be0cd19137e2179

/-- `W_t = σ1(W_(t-2)) + W_(t-7) + σ0(W_(t-15)) + W_(t-16)` (R434, R443); `ws` holds the words so far, newest first. -/
def sha2NextWord {w : Nat} (f : Sha2 w) (ws : List (BitVec w)) : BitVec w :=
  smallSigma f.shifts1 (ws.getD 1 0) + ws.getD 6 0 + smallSigma f.shifts0 (ws.getD 14 0) + ws.getD 15 0

/-- The schedule, oldest first, one word for each constant (R434, R443). -/
def sha2Schedule {w : Nat} (f : Sha2 w) (b : List Byte) : List (BitVec w) :=
  (extendSchedule (sha2NextWord f) (f.k.length - 16) (firstWords w f.wordLen b)).reverse

/-- `T1` of a round with `K_t` and `W_t`, from `(a, b, c, d, e, f, g, h)` (R435). -/
def sha2T1 {w : Nat} (f : Sha2 w) (kt wt : BitVec w) (v : Vector (BitVec w) 8) : BitVec w :=
  v[7] + bigSigma f.rotations1 v[4] + hashCh v[4] v[5] v[6] + kt + wt

/-- `T2` of a round (R435). -/
def sha2T2 {w : Nat} (f : Sha2 w) (v : Vector (BitVec w) 8) : BitVec w :=
  bigSigma f.rotations0 v[0] + hashMaj v[0] v[1] v[2]

/-- One round: a shift, with `T1 + T2` the new `a`, and `e` taking `d + T1` (R435). -/
def sha2Round {w : Nat} (f : Sha2 w) (kt wt : BitVec w) (v : Vector (BitVec w) 8) : Vector (BitVec w) 8 :=
  (shiftIn (sha2T1 f kt wt v + sha2T2 f v) v).set 4 (v[3] + sha2T1 f kt wt v)

/-- The rounds, one for each constant and word left (R435). -/
def sha2Rounds {w : Nat} (f : Sha2 w) : List (BitVec w) → List (BitVec w) → Vector (BitVec w) 8 → Vector (BitVec w) 8
  | k :: ks, x :: xs, v => sha2Rounds f ks xs (sha2Round f k x v)
  | _, _, v => v

/-- `Compress` of SHA-256 (R435), and the same for SHA-512 (R443). -/
def sha2Compress {w : Nat} (f : Sha2 w) (h : Vector (BitVec w) 8) (b : List Byte) : Vector (BitVec w) 8 :=
  addWords h (sha2Rounds f f.k (sha2Schedule f b) h)

/-! ### What the accumulator uses -/

/-- `H0(HASH_ALG)` (R332). -/
def hashInit : HashAlg → HashState
  | .sha1 => .sha1 sha1Init
  | .sha256 => .sha256 sha256Init

/-- `Compress(HASH_ALG, H, B)` on a 64-byte block (R425, R435). -/
def HashState.compress (b : List Byte) : HashState → HashState
  | .sha1 h => .sha1 (sha1Compress h b)
  | .sha256 h => .sha256 (sha2Compress Machine.sha256 h b)

/-- `Digest(HASH_ALG, H)`: the words, each most significant byte first (R427, R436). -/
def HashState.digest : HashState → List Byte
  | .sha1 h => h.toList.flatMap (wordBytes 4)
  | .sha256 h => h.toList.flatMap (wordBytes 4)

/-- The message's padding: one 0x80 byte, then the fewest zero bytes that make the length `room` modulo `block`; the
length field follows (R334, R426, R443). -/
def hashPad (block room len : Nat) : List Byte :=
  0x80 :: List.replicate ((block + room - 1 - len % block) % block) 0

/-- Fold `compress` over the first `n` blocks of `len` bytes. -/
def foldBlocks {σ : Type} (compress : List Byte → σ → σ) (len : Nat) : Nat → List Byte → σ → σ
  | 0, _, h => h
  | n + 1, bs, h => foldBlocks compress len n (bs.drop len) (compress (bs.take len) h)

/-- `SHA512(m)`, on the host (R443). -/
def sha512Digest (m : List Byte) : List Byte :=
  let t := m ++ hashPad 128 112 m.length ++ wordBytes 16 (BitVec.ofNat 128 (8 * m.length))
  let h := foldBlocks (fun b h => sha2Compress sha512 h b) 128 (t.length / 128) t sha512Init
  h.toList.flatMap (wordBytes 8)

end Sys2Proof.Machine
end

