-- ==== Sys2Proof/Machine/HostSyntax.lean ====
section
/-! DEFINITION. The host notation (30_encoding.md R150, R151), the outcomes of a host run (46_host_protocol.md R493,
R494) and the state of the host, the bus master of 00_scope.md R8. -/

namespace Sys2Proof.Machine

/-- The fatal errors of a run (R493). The three places of the source's `PaddingError` are kept apart. -/
inductive HostError where
  /-- `FormatError`: the magic signature differs (R482). -/
  | format
  /-- `UnsupportedVersionError`, with the major and minor version it reports, the minor one when the file has that byte
  (R483). -/
  | unsupportedVersion (major : Byte) (minor : Option Byte)
  /-- `AuthenticationError`: the password hash differs (R487). -/
  | authentication
  /-- `IOError`: short read, truncation, missing file, existing output, no extension (R480, R485, R492). -/
  | io
  /-- `PaddingError` found by `CK_DECRYPT` (R497). -/
  | paddingChecksum
  /-- `PaddingError` found by `DECRYPT_FINAL` (R490). -/
  | paddingStream
  /-- `PaddingError` of a data length that is no multiple of 16 (R490). -/
  | paddingLength
  deriving DecidableEq, Repr

/-- How a host run stands (R493, R494): `integrityWarning` is not fatal. -/
inductive RunOutcome where
  | running
  | success
  | integrityWarning
  | failed (e : HostError)
  deriving DecidableEq, Repr

/-- `PARTIAL_OUTPUT`: what a writing run leaves in the output file after a late fatal error. OPEN (R7, R492), so it is
part of each run. -/
inductive PartialOutput where
  | kept
  | removed
  deriving DecidableEq, Repr

/-- A path of the host's file system. How the host's path library writes and splits one is its own business (R492). -/
abbrev Path := List Char

/-- A label of a host program: one the programmer named, or the one a `WAIT` on a given source line introduces
(R150, R151). -/
inductive Label where
  | named (n : Nat)
  | wait (line : Nat)
  deriving DecidableEq, Repr

/-- One statement of a host program. `bus`, `label` and `bnz` are the statements of R150, `bus` in the raw form that
any bus master can present. The others are the driver's steps that R497 sets apart as host steps: they read registers
like any other statement, or work on the host alone. -/
inductive Stmt where
  /-- One bus transaction; the value a read returns is recorded in the trace (R150). -/
  | bus (b : BusOp)
  /-- Names the next statement; no transaction (R150). -/
  | label (l : Label)
  /-- Read `r`; continue at the label when the value has a bit of `mask` set (R150). -/
  | bnz (r : RegName) (mask : Word) (l : Label)
  /-- Read `r`; end the run with `e` when the bits of `mask` read as `value` (R490, R497). -/
  | failIf (r : RegName) (mask value : Word) (e : HostError)
  /-- End the run with `e` (R490). -/
  | fail (e : HostError)
  /-- Read `r` and keep its four bytes for the next `emit` (R489). -/
  | collect (r : RegName)
  /-- Give every kept byte to the output sink (R489, R491). -/
  | emit
  /-- Read the length register `r` and give that many of the kept bytes to the output sink (R490). -/
  | emitLen (r : RegName)
  /-- Read `r`, take bits `[lo + len - 1 : lo]` as a length, and print that many of the kept bytes as a hex string
  (R495). -/
  | print (r : RegName) (lo len : Nat)
  /-- Wait for the `irq` output to be high, in place of polling; no transaction (R496, R596). -/
  | waitIrq
  /-- Read `STATUS` and end the run by `MATCH` (R495). -/
  | report
  deriving DecidableEq, Repr

/-- A line of host source: a statement of R150, a pseudo-statement of R151, or a driver step. -/
inductive HostLine where
  | wr (r : RegName) (v : Word)
  | rd (r : RegName)
  | label (n : Nat)
  | bnz (r : RegName) (mask : Word) (n : Nat)
  | cmd (i : Instr)
  | wait
  | ldkey (a : Bytes 32)
  | ldiv (a : Bytes 16)
  | lddin (a : Bytes 16)
  | ldck (a : Bytes 32)
  | ack (mask : Word)
  | step (st : Stmt)
  deriving DecidableEq, Repr

/-- The state of the host agent: the program it runs, its position, and what it has seen and written. -/
structure HostAgent where
  /-- The statements of the program (R150). -/
  program : List Stmt
  /-- Index of the next statement. -/
  pc : Nat
  /-- The values of the recorded reads, oldest first (R150). -/
  trace : List Word
  /-- Bytes read from a register group and neither emitted nor printed yet (R489, R495). -/
  buffer : List Byte
  /-- The output path of a writing run; `none` with the no-write flag (R491, R492). -/
  outputPath : Option Path
  /-- The bytes of the file at the output path, `none` when there is no such file (R491, R492). -/
  outputFile : Option (List Byte)
  /-- The hex strings of the report, in the order printed (R495). -/
  printed : List (List Char)
  /-- `PARTIAL_OUTPUT` of this run (R492). -/
  partialOutput : PartialOutput
  /-- How the run stands (R493, R494). -/
  outcome : RunOutcome
  deriving DecidableEq, Repr

/-- A host with no program: it presents no transaction. -/
def HostAgent.idle : HostAgent where
  program := []
  pc := 0
  trace := []
  buffer := []
  outputPath := none
  outputFile := none
  printed := []
  partialOutput := .kept
  outcome := .running

end Sys2Proof.Machine
end

