-- ==== Sys2Proof/Machine/State.lean ====
section
/-! DEFINITION. The state of the machine: every register and every piece of hidden state of 10_state.md, with the two
other agents of 00_scope.md R8 as plain data, the host and the order in which the agents move. -/

namespace Sys2Proof.Machine

/-- `STATUS.SSTATE`, the state of the content stream (R50). -/
inductive StreamState where
  | idle
  | stream
  | done
  | error
  deriving DecidableEq, Repr

/-- `STATUS.CKSTATE`, the state of the checksum unit; the value 3 never occurs (R51). -/
inductive ChecksumState where
  | empty
  | valid
  | error
  deriving DecidableEq, Repr

/-- The commands that can be in flight, the non-zero values of `STATUS.PEND` (R55, R82). -/
inductive LongCommand where
  | initStream
  | decryptBlock
  | decryptFinal
  | ckDecrypt
  | compare
  deriving DecidableEq, Repr

/-- The engine's errors, the non-zero values of `ERRCODE.CODE` that occur (R530). -/
inductive EngineError where
  | padStream
  | padChecksum
  | illegalCmd
  | sequence
  | busy
  | locked
  deriving DecidableEq, Repr

/-- The agents of R8, each with its own step: the host, the engine (the completion of the command in flight) and
reset. -/
inductive Agent where
  | host
  | engine
  | reset
  deriving DecidableEq, Repr

/-- The state. The registers follow the map of R43; `STATUS` is held field by field (R48), and `STATUS.ERR`, `LOCKED`
and `irq` are derived (R54, R80, R81). -/
structure State where
  /-- `HASH_ALG`, constant for a build; reset does not touch it (R46, R85). -/
  hashAlg : HashAlg
  /-- `STATUS.BUSY` (R49). -/
  busy : Bool
  /-- `STATUS.SSTATE` (R50). -/
  sstate : StreamState
  /-- `STATUS.CKSTATE` (R51). -/
  ckstate : ChecksumState
  /-- `STATUS.CMP_VALID` (R52). -/
  cmpValid : Bool
  /-- `STATUS.MATCH` (R53). -/
  matchBit : Bool
  /-- `STATUS.PEND`; `none` reads 0 (R55). -/
  pend : Option LongCommand
  /-- `ERRCODE`; `none` reads 0 (R56). -/
  errcode : Option EngineError
  /-- `ERRFLAGS` (R57). -/
  errflags : Word
  /-- `INT_EN` (R58). -/
  intEn : Word
  /-- `INT_STATUS` (R59). -/
  intStatus : Word
  /-- `KEY0`–`KEY7` (R60). -/
  key : Bytes 32
  /-- `IV0`–`IV3` (R61). -/
  iv : Bytes 16
  /-- `DIN0`–`DIN3` (R62). -/
  din : Bytes 16
  /-- `DOUT0`–`DOUT3` (R63). -/
  dout : Bytes 16
  /-- `DOUT_LEN` (R64). -/
  doutLen : Nat
  /-- `HCOUNT` (R65, R79). -/
  hcount : BitVec 64
  /-- `CK0`–`CK7` (R66). -/
  ck : Bytes 32
  /-- `EXP0`–`EXP7` (R67). -/
  exp : Bytes 32
  /-- `EXP_LEN` (R68). -/
  expLen : Nat
  /-- `DIGEST0`–`DIGEST7` (R69). -/
  digest : Bytes 32
  /-- `CHAIN`, hidden (R75). -/
  chain : Bytes 16
  /-- `L_KEY`, hidden (R76). -/
  lKey : Bytes 32
  /-- `L_IV`, hidden (R76). -/
  lIv : Bytes 16
  /-- `L_DIN`, hidden (R76). -/
  lDin : Bytes 16
  /-- `L_CK`, hidden (R76). -/
  lCk : Bytes 32
  /-- `HSTATE`, hidden (R77). -/
  hstate : HashState
  /-- `HBUF`, hidden (R78). -/
  hbuf : List Byte
  /-- The host agent (R8). -/
  host : HostAgent
  /-- The agents that move in the next steps, first one first. The model's own field (log entry 1): the order of the
  agents' steps is free (R208, R541), and every order is some list. -/
  schedule : List Agent
  deriving DecidableEq, Repr

/-- The only fault of R535. -/
inductive Fault where
  /-- The bus gave the transaction `b` an error response: its size is not 4 or its offset is no multiple of 4 (R104).
  Raised by the host's step, as R104 and R534 tell a model to; the engine's state is unchanged. Safe: the run stops
  where the host's program would go on after the error response. -/
  | busError (b : BusOp)
  deriving DecidableEq, Repr

/-- R535: nothing is refused. -/
inductive Refusal where
  /-- Raised only by an arm of `exec` whose command has no meaning yet; no arm raises it. Safe. -/
  | notModelled (mnemonic : String)
  deriving DecidableEq, Repr

/-- The reset values of R85 in a build with the given `HASH_ALG`, with an idle host and an empty schedule. -/
def State.resetOf (alg : HashAlg) : State where
  hashAlg := alg
  busy := false
  sstate := .idle
  ckstate := .empty
  cmpValid := false
  matchBit := false
  pend := none
  errcode := none
  errflags := 0
  intEn := 0
  intStatus := 0
  key := zeros 32
  iv := zeros 16
  din := zeros 16
  dout := zeros 16
  doutLen := 0
  hcount := 0
  ck := zeros 32
  exp := zeros 32
  expLen := 0
  digest := zeros 32
  chain := zeros 16
  lKey := zeros 32
  lIv := zeros 16
  lDin := zeros 16
  lCk := zeros 32
  hstate := hashInit alg
  hbuf := []
  host := .idle
  schedule := []

/-- The machine right after reset, in the default build `HASH_ALG = SHA1` (R7, R85). -/
def State.reset : State := .resetOf .sha1

end Sys2Proof.Machine
end

