-- ==== Sys2Proof/Machine/Flags.lean ====
section
/-! DEFINITION. The status, error and interrupt flags: the words software reads, the derived flags, and the checks a
command issue makes of them (10_state.md R45 to R59, R80, R81, 40_control.md R205). -/

namespace Sys2Proof.Machine

/-- `ID` (R45). -/
def idWord : Word := 0x45430100

/-- `CFG`: `HASH_ALG` in bit 0, `HASH_LEN` in bits [13:8] (R46). -/
def cfgWord : HashAlg → Word
  | .sha1 => 0x00001400
  | .sha256 => 0x00002001

/-- The value of `SSTATE` (R50). -/
def StreamState.code : StreamState → BitVec 2
  | .idle => 0
  | .stream => 1
  | .done => 2
  | .error => 3

/-- The value of `CKSTATE` (R51). -/
def ChecksumState.code : ChecksumState → BitVec 2
  | .empty => 0
  | .valid => 1
  | .error => 2

/-- The command whose opcode `PEND` holds (R55). -/
def LongCommand.instr : LongCommand → Instr
  | .initStream => .initStream
  | .decryptBlock => .decryptBlock
  | .decryptFinal => .decryptFinal
  | .ckDecrypt => .ckDecrypt
  | .compare => .compare

/-- The value of `PEND`: the opcode in flight, 0 when idle (R55). -/
def pendCode : Option LongCommand → Byte
  | none => 0
  | some c => opcodeField (encode c.instr)

/-- The code of an error (R530). -/
def EngineError.code : EngineError → Nat
  | .padStream => 1
  | .padChecksum => 2
  | .illegalCmd => 3
  | .sequence => 4
  | .busy => 5
  | .locked => 6

/-- `ERRCODE`: `CODE` in bits [3:0] (R56). -/
def errcodeWord : Option EngineError → Word
  | none => 0
  | some e => BitVec.ofNat 32 e.code

/-- The bit of `ERRFLAGS` for an error (R57). -/
def errorBit (e : EngineError) : Word := 1 <<< e.code

/-- `INT_STATUS.DONE` and `INT_EN.DONE_IE`, bit 0 (R58, R59). -/
def doneBit : Word := 0x1

/-- `INT_STATUS.ERR` and `INT_EN.ERR_IE`, bit 1 (R58, R59). -/
def errBit : Word := 0x2

/-- `INT_STATUS.MISMATCH` and `INT_EN.MISMATCH_IE`, bit 2 (R58, R59). -/
def mismatchBit : Word := 0x4

/-- The bits of `INT_EN` and `INT_STATUS` that are not reserved (R58, R59). -/
def intMask : Word := 0x7

/-- The bits of `ERRFLAGS` that are not reserved, 1 to 6 (R57). -/
def errMask : Word := 0x7E

/-- `STATUS.ERR`: 1 exactly when `ERRFLAGS ≠ 0` (R54). -/
def State.errBitSet (s : State) : Bool := s.errflags != 0

/-- A flag at bit `n` of a word. -/
def flagAt (b : Bool) (n : Nat) : Word := if b then 1 <<< n else 0

/-- `STATUS` (R48). -/
def State.statusWord (s : State) : Word :=
  flagAt s.busy 0 ||| (s.sstate.code.setWidth 32 <<< 1) ||| (s.ckstate.code.setWidth 32 <<< 3) |||
    flagAt s.cmpValid 5 ||| flagAt s.matchBit 6 ||| flagAt s.errBitSet 7 ||| ((pendCode s.pend).setWidth 32 <<< 8)

/-- The `irq` output (R81, R546). -/
def State.irq (s : State) : Bool := (s.intStatus &&& s.intEn).extractLsb' 0 3 != 0

/-- `LOCKED` (R80). -/
def State.locked (s : State) : Bool :=
  s.sstate == .stream || (s.busy && s.pend == some .initStream)

/-- `Legal(op)` (R205). -/
def State.legal (s : State) : LongCommand → Bool
  | .initStream => true
  | .decryptBlock => s.sstate == .stream
  | .decryptFinal => s.sstate == .stream
  | .ckDecrypt => true
  | .compare => s.sstate == .done && s.ckstate == .valid

end Sys2Proof.Machine
end

