-- ==== Sys2Proof/Machine/Operands.lean ====
section
/-! DEFINITION. Byte arrays as operands: the packing into register words (00_scope.md R11, R105), exclusive-or (R9) and
the PKCS#7 padding of a block (42_stream.md R297). -/

namespace Sys2Proof.Machine

/-- `a[i]`, 0 past the end. -/
def byteAt {n : Nat} (a : Bytes n) (i : Nat) : Byte := if h : i < n then a[i] else 0

/-- Bits `[8j+7 : 8j]` of a word (R11). -/
def byteOfWord (v : Word) (j : Nat) : Byte := v.extractLsb' (8 * j) 8

/-- `pack(a)[k] = a[4k] | a[4k+1] << 8 | a[4k+2] << 16 | a[4k+3] << 24` (R11). -/
def wordAt {n : Nat} (a : Bytes n) (k : Nat) : Word :=
  (byteAt a (4 * k)).setWidth 32 ||| ((byteAt a (4 * k + 1)).setWidth 32 <<< 8) |||
    ((byteAt a (4 * k + 2)).setWidth 32 <<< 16) ||| ((byteAt a (4 * k + 3)).setWidth 32 <<< 24)

/-- The array with word `k` of the group written: bytes `4k .. 4k+3` take `v[7:0]`, …, `v[31:24]` (R210). -/
def setWord {n : Nat} (a : Bytes n) (k : Nat) (v : Word) : Bytes n :=
  Vector.ofFn fun i => if i.val / 4 = k then byteOfWord v (i.val % 4) else a[i]

/-- The bytes of one word, index 0 first: `unpack` of a single word (R11). -/
def unpackWord (v : Word) : List Byte := [byteOfWord v 0, byteOfWord v 1, byteOfWord v 2, byteOfWord v 3]

/-- `unpack(w0, w1, ...)` (R11). -/
def unpack (ws : List Word) : List Byte := ws.flatMap unpackWord

/-- The array whose first bytes are the list's and whose others are 0x00: `l || zeros(n - len(l))`. -/
def padTo (n : Nat) (l : List Byte) : Bytes n := Vector.ofFn fun i => l.getD i.val 0

/-- `a xor b`, bytewise (R9). -/
def xorBytes {n : Nat} (a b : Bytes n) : Bytes n := Vector.ofFn fun i => a[i] ^^^ b[i]

/-- `a[0..16)` of a 32-byte array. -/
def lowBlock (a : Bytes 32) : Bytes 16 := Vector.ofFn fun i => a[i.val]

/-- `a[16..32)` of a 32-byte array. -/
def highBlock (a : Bytes 32) : Bytes 16 := Vector.ofFn fun i => a[16 + i.val]

/-- The number of padding bytes a block claims: its final byte (R297). -/
def padLen (p : Bytes 16) : Nat := p[15].toNat

/-- `pkcs7_ok(p)` (R297). -/
def pkcs7Ok (p : Bytes 16) : Bool :=
  decide (1 ≤ padLen p) && decide (padLen p ≤ 16) && (p.toList.drop (16 - padLen p)).all (· == p[15])

/-- `pkcs7_len(p)`, the bytes before the padding, for a block with `pkcs7_ok(p)` (R297). -/
def pkcs7Len (p : Bytes 16) : Nat := 16 - padLen p

end Sys2Proof.Machine
end

