-- ==== Sys2Proof/Machine/Ops.lean ====
section
/-! DEFINITION. The shared operations: recording and clearing errors, reset, the issue and the completion of a command,
and the hash accumulator. -/

namespace Sys2Proof.Machine

/-! ### Errors (60_exceptions.md). The engine takes no traps (R550): an error is recorded and the engine goes on. -/

/-- `record_error(code)`, what `raise Error(code)` does (R531). -/
def State.recordError (e : EngineError) (s : State) : State :=
  { s with errcode := some e, errflags := s.errflags ||| errorBit e, intStatus := s.intStatus ||| errBit }

/-- `ERRCODE <- 0; ERRFLAGS <- 0`, what `ERR_CLEAR` does (R222, R551). -/
def State.clearErrors (s : State) : State := { s with errcode := none, errflags := 0 }

/-- The W1C write of `INT_STATUS`: `INT_STATUS <- INT_STATUS & ~v & 0x7` (R213). -/
def State.ackInterrupts (v : Word) (s : State) : State := { s with intStatus := s.intStatus &&& ~~~v &&& intMask }

/-! ### Reset -/

/-- `SoftReset()` and the `rst` port: every register takes its value of R85; the build's `HASH_ALG` and the other agents
are not the engine's to reset (R221, R580). -/
def State.softReset (s : State) : State := { State.resetOf s.hashAlg with host := s.host, schedule := s.schedule }

/-! ### Issue and completion (40_control.md) -/

/-- `Issue(op)` (R206). -/
def State.issue (c : LongCommand) (s : State) : State :=
  { s with lKey := s.key, lIv := s.iv, lDin := s.din, lCk := s.ck, pend := some c, busy := true }

/-- The checks of a command that sets `BUSY`, in the order of R202 and R540, and its issue. -/
def State.issueCommand (c : LongCommand) (s : State) : State :=
  if s.busy then s.recordError .busy
  else if s.legal c then s.issue c
  else s.recordError .sequence

/-- The bookkeeping that ends a completion: `PEND <- 0; BUSY <- 0; INT_STATUS.DONE <- 1` (R207). -/
def State.finishCompletion (s : State) : State :=
  { s with pend := none, busy := false, intStatus := s.intStatus ||| doneBit }

/-- `STATUS.CMP_VALID <- 0; STATUS.MATCH <- 0` (R52, R53). -/
def State.dropCompare (s : State) : State := { s with cmpValid := false, matchBit := false }

/-! ### The hash accumulator (43_integrity.md) -/

/-- `HashReset()` (R332). -/
def State.hashReset (s : State) : State := { s with hstate := hashInit s.hashAlg, hbuf := [], hcount := 0 }

/-- `Absorb(m)` (R333): the loop compresses as many whole 64-byte blocks as `HBUF || m` holds. -/
def State.absorb (m : List Byte) (s : State) : State :=
  let b := s.hbuf ++ m
  { s with
    hcount := s.hcount + BitVec.ofNat 64 m.length
    hstate := foldBlocks HashState.compress 64 (b.length / 64) b s.hstate
    hbuf := b.drop (64 * (b.length / 64)) }

/-- The message tail `T` that `Finalize` compresses: `HBUF || 0x80 || zeros(z) || be64(8 * HCOUNT)` (R334). -/
def State.hashTail (s : State) : List Byte := s.hbuf ++ hashPad 64 56 s.hbuf.length ++ wordBytes 8 (8 * s.hcount)

/-- `Finalize()`: the digest of everything absorbed since `HashReset()`; it changes no state (R334). -/
def State.finalize (s : State) : List Byte :=
  (foldBlocks HashState.compress 64 (s.hashTail.length / 64) s.hashTail s.hstate).digest

end Sys2Proof.Machine
end

