-- ==== Sys2Proof/Machine/Checksum.lean ====
section
/-! DEFINITION. The checksum unit, a CBC instance of its own (41_checksum.md). -/

namespace Sys2Proof.Machine

/-- `CK_DECRYPT` written to `CMD` (R250, R202). -/
def execCkDecrypt (s : State) : Host.Outcome State Fault Refusal := .next (s.issueCommand .ckDecrypt)

/-- `P0 = AESDec256(L_KEY, C0) xor L_IV`, the fresh instance's first block (R250, R253). -/
def State.checksumFirst (s : State) : Bytes 16 := xorBytes (Aes.aesDec256 s.lKey (lowBlock s.lCk)) s.lIv

/-- `P1 = AESDec256(L_KEY, C1) xor C0` (R250). -/
def State.checksumSecond (s : State) : Bytes 16 :=
  xorBytes (Aes.aesDec256 s.lKey (highBlock s.lCk)) (lowBlock s.lCk)

/-- `P = P0 || P1` (R250). -/
def State.checksumPlain (s : State) : List Byte := s.checksumFirst.toList ++ s.checksumSecond.toList

/-- The branch of `CK_DECRYPT` with a good padding of `n` bytes (R250). -/
def checksumGood (n : Nat) (s : State) : State :=
  { s.dropCompare with exp := padTo 32 (s.checksumPlain.take (32 - n)), expLen := 32 - n, ckstate := .valid }

/-- The branch of `CK_DECRYPT` with a malformed padding (R250). -/
def checksumBad (s : State) : State :=
  State.recordError .padChecksum { s.dropCompare with exp := zeros 32, expLen := 0, ckstate := .error }

/-- Completion of `CK_DECRYPT` (R250). -/
def effectCkDecrypt (s : State) : State :=
  if pkcs7Ok s.checksumSecond then checksumGood (padLen s.checksumSecond) s else checksumBad s

end Sys2Proof.Machine
end

