-- ==== Sys2Proof/Machine/Integrity.lean ====
section
/-! DEFINITION. The integrity comparison (43_integrity.md). -/

namespace Sys2Proof.Machine

/-- `COMPARE` written to `CMD` (R340, R202). -/
def execCompare (s : State) : Host.Outcome State Fault Refusal := .next (s.issueCommand .compare)

/-- `(EXP_LEN = HASH_LEN) and (EXP[0..EXP_LEN) = DIGEST[0..HASH_LEN))` (R340, R341). -/
def State.hashesEqual (s : State) : Bool :=
  s.expLen == s.hashAlg.hashLen && s.exp.toList.take s.expLen == s.digest.toList.take s.hashAlg.hashLen

/-- Completion of `COMPARE`: a mismatch is reported in `MATCH` and `INT_STATUS.MISMATCH` and is no error (R340, R342). -/
def effectCompare (s : State) : State :=
  { s with
    cmpValid := true
    matchBit := s.hashesEqual
    intStatus := if s.hashesEqual then s.intStatus else s.intStatus ||| mismatchBit }

end Sys2Proof.Machine
end

