-- ==== Sys2Proof/Machine/Stream.lean ====
section
/-! DEFINITION. The content stream (42_stream.md). Each command has its issue, run by the `CMD` write, and its
Completion block, run by the engine's step (R201, R207). -/

namespace Sys2Proof.Machine

/-- `INIT_STREAM` written to `CMD` (R282, R202). -/
def execInitStream (s : State) : Host.Outcome State Fault Refusal := .next (s.issueCommand .initStream)

/-- `DECRYPT_BLOCK` written to `CMD` (R285, R202). -/
def execDecryptBlock (s : State) : Host.Outcome State Fault Refusal := .next (s.issueCommand .decryptBlock)

/-- `DECRYPT_FINAL` written to `CMD` (R290, R202). -/
def execDecryptFinal (s : State) : Host.Outcome State Fault Refusal := .next (s.issueCommand .decryptFinal)

/-- The plaintext of the latched block: `AESDec256(L_KEY, L_DIN) xor CHAIN` (R280, R285). -/
def State.streamPlain (s : State) : Bytes 16 := xorBytes (Aes.aesDec256 s.lKey s.lDin) s.chain

/-- Completion of `INIT_STREAM` (R282). -/
def effectInitStream (s : State) : State :=
  { s.hashReset.dropCompare with
    chain := s.lIv
    dout := zeros 16
    doutLen := 0
    digest := zeros 32
    sstate := .stream }

/-- Completion of `DECRYPT_BLOCK` (R285). -/
def effectDecryptBlock (s : State) : State :=
  State.absorb s.streamPlain.toList { s with chain := s.lDin, dout := s.streamPlain, doutLen := 16 }

/-- The branch of `DECRYPT_FINAL` with a good padding: `m` is the unpadded plaintext (R290). -/
def finalGood (m : List Byte) (s : State) : State :=
  let t := State.absorb m { s with chain := s.lDin, dout := padTo 16 m, doutLen := m.length }
  { t with digest := padTo 32 t.finalize, sstate := .done }

/-- The branch of `DECRYPT_FINAL` with a malformed padding: nothing is absorbed or output (R290). -/
def finalBad (s : State) : State :=
  State.recordError .padStream { s with chain := s.lDin, dout := zeros 16, doutLen := 0, sstate := .error }

/-- Completion of `DECRYPT_FINAL` (R290). -/
def effectDecryptFinal (s : State) : State :=
  if pkcs7Ok s.streamPlain then finalGood (s.streamPlain.toList.take (pkcs7Len s.streamPlain)) s else finalBad s

end Sys2Proof.Machine
end

