-- ==== Sys2Proof/Machine/Completion.lean ====
section
/-! DEFINITION. The engine's step: the completion of the command in flight (40_control.md R207). -/

namespace Sys2Proof.Machine

/-- `Effect(op)`: the Completion block of the command's rule (R207). -/
def effect : LongCommand → State → State
  | .initStream => effectInitStream
  | .decryptBlock => effectDecryptBlock
  | .decryptFinal => effectDecryptFinal
  | .ckDecrypt => effectCkDecrypt
  | .compare => effectCompare

/-- `Effect(STATUS.PEND)`. With `PEND = 0` there is no command to take effect; no reachable state completes so (R82,
log entry 5). -/
def effectPending (s : State) : State :=
  match s.pend with
  | some c => effect c s
  | none => s

/-- The completion, enabled exactly when `BUSY = 1`; otherwise the engine has no step and nothing changes (R207). -/
def complete (s : State) : State :=
  if s.busy then (effectPending s).finishCompletion else s

end Sys2Proof.Machine
end

