-- ==== Sys2Proof/Machine/Control.lean ====
section
/-! DEFINITION. The control commands, which take effect in the step of their `CMD` write (40_control.md). -/

namespace Sys2Proof.Machine

/-- `NOP`: no effect at all, legal in every state (R204). -/
def execNop (s : State) : Host.Outcome State Fault Refusal := .next s

/-- `SOFT_RESET`: every register takes its reset value; a command in flight is abandoned (R221). -/
def execSoftReset (s : State) : Host.Outcome State Fault Refusal := .next s.softReset

/-- `ERR_CLEAR`: clears `ERRCODE` and `ERRFLAGS` and nothing else (R222). -/
def execErrClear (s : State) : Host.Outcome State Fault Refusal := .next s.clearErrors

end Sys2Proof.Machine
end

