-- ==== Sys2Proof/Machine/Dispatch.lean ====
section
/-! DEFINITION. What a command word written to `CMD` does in the step of that write (40_control.md R202): the control
commands act at once, the others are checked and issued. -/

namespace Sys2Proof.Machine

/-- The handling of a command by the `CMD` write (R202). -/
def exec (i : Instr) (s : State) : Host.Outcome State Fault Refusal :=
  match i with
  | .nop => Sys2Proof.Machine.execNop s
  | .softReset => Sys2Proof.Machine.execSoftReset s
  | .initStream => Sys2Proof.Machine.execInitStream s
  | .decryptBlock => Sys2Proof.Machine.execDecryptBlock s
  | .decryptFinal => Sys2Proof.Machine.execDecryptFinal s
  | .ckDecrypt => Sys2Proof.Machine.execCkDecrypt s
  | .compare => Sys2Proof.Machine.execCompare s
  | .errClear => Sys2Proof.Machine.execErrClear s

end Sys2Proof.Machine
end

