-- ==== Sys2Proof/Machine/Registers.lean ====
section
/-! DEFINITION. Register access over the bus (40_control.md R210 to R216, 20_memory.md R100 to R110). -/

namespace Sys2Proof.Machine

/-! ### Reads -/

/-- The value a read of a register returns; no read changes state (R110, R211). -/
def readRegister (s : State) : RegName → Word
  | .id => idWord
  | .cfg => cfgWord s.hashAlg
  | .cmd => 0
  | .status => s.statusWord
  | .errcode => errcodeWord s.errcode
  | .errflags => s.errflags
  | .intEn => s.intEn
  | .intStatus => s.intStatus
  | .key _ => 0
  | .iv k => wordAt s.iv k.val
  | .din k => wordAt s.din k.val
  | .dout k => wordAt s.dout k.val
  | .doutLen => (BitVec.ofNat 5 s.doutLen).setWidth 32
  | .hcountLo => s.hcount.extractLsb' 0 32
  | .hcountHi => s.hcount.extractLsb' 32 32
  | .ck k => wordAt s.ck k.val
  | .exp k => wordAt s.exp k.val
  | .expLen => (BitVec.ofNat 6 s.expLen).setWidth 32
  | .digest k => wordAt s.digest k.val

/-- The value a read at an offset of the window returns: 0 at the reserved offsets (R70, R211). -/
def readOffset (s : State) (off : BitVec 12) : Word :=
  match regAt off with
  | some r => readRegister s r
  | none => 0

/-! ### Writes -/

/-- A write of `CMD`: the command is dispatched, and an illegal word records `ILLEGAL_CMD` whatever the state (R202,
R203). -/
def dispatchCommand (w : Word) (s : State) : Host.Outcome State Fault Refusal :=
  match decode w with
  | .ok i => exec i s
  | .error _ => .next (s.recordError .illegalCmd)

/-- A lock-checked write: `write` gives the state with the word written (R214). -/
def lockChecked (write : State → State) (s : State) : State :=
  if s.locked then s.recordError .locked else write s

/-- `INT_EN <- v & 0x7` (R212). -/
def State.setIntEn (v : Word) (s : State) : State := { s with intEn := v &&& intMask }

/-- `KEY[k] <- v` (R214). -/
def State.setKeyWord (k : Nat) (v : Word) (s : State) : State := { s with key := setWord s.key k v }

/-- `IV[k] <- v` (R214). -/
def State.setIvWord (k : Nat) (v : Word) (s : State) : State := { s with iv := setWord s.iv k v }

/-- `DIN[k] <- v` (R215). -/
def State.setDinWord (k : Nat) (v : Word) (s : State) : State := { s with din := setWord s.din k v }

/-- `CK[k] <- v` (R215). -/
def State.setCkWord (k : Nat) (v : Word) (s : State) : State := { s with ck := setWord s.ck k v }

/-- A write of a register (R210); a write of a read-only register has no effect (R216). -/
def writeRegister (r : RegName) (v : Word) (s : State) : Host.Outcome State Fault Refusal :=
  match r with
  | .cmd => dispatchCommand v s
  | .intEn => .next (s.setIntEn v)
  | .intStatus => .next (s.ackInterrupts v)
  | .key k => .next (lockChecked (State.setKeyWord k.val v) s)
  | .iv k => .next (lockChecked (State.setIvWord k.val v) s)
  | .din k => .next (s.setDinWord k.val v)
  | .ck k => .next (s.setCkWord k.val v)
  | .id | .cfg | .status | .errcode | .errflags | .dout _ | .doutLen | .hcountLo | .hcountHi | .exp _ | .expLen
  | .digest _ => .next s

/-- A write at an offset of the window; at the reserved offsets it has no effect (R70, R210, R216). -/
def writeOffset (off : BitVec 12) (v : Word) (s : State) : Host.Outcome State Fault Refusal :=
  match regAt off with
  | some r => writeRegister r v s
  | none => .next s

/-! ### Transactions -/

/-- What a transaction does to the engine: a read nothing, a write the register write, and an access of another size or
alignment is the host's fault (R101, R102, R104). -/
def performBus (b : BusOp) (s : State) : Host.Outcome State Fault Refusal :=
  if b.aligned then
    match b with
    | .read _ _ => .next s
    | .write off _ v => writeOffset off v s
  else .fault (.busError b)

/-- Whether the port answers with the error response: to an access of another size or alignment (R104), and never while
`rst` is high (R583). -/
def busErr (rst : Bool) (b : BusOp) : Bool := !rst && !b.aligned

/-- The read data of a read: the register's value; 0 with the error response (R104), and 0 while `rst` is high, when the
transaction is lost (R583). -/
def readData (rst : Bool) (off : BitVec 12) (size : BusSize) (s : State) : Word :=
  if !rst && BusOp.aligned (.read off size) then readOffset s off else 0

/-- What the bus port answers the master (R40). No rule says what `rdata` carries in the response to a WRITE, accepted, in
error or lost (R104 and R583 speak of reads): that value is free, the argument `writeData`, and no step of the model
reads it (DESIGN CHOICE, log entry 27). -/
def busResponse (rst : Bool) (writeData : Word) (b : BusOp) (s : State) : BusResponse where
  rdata := match b with
    | .read off size => readData rst off size s
    | .write _ _ _ => writeData
  err := busErr rst b

/-- `addr[11:0]`, the offset the engine decodes from a host address (R103). -/
def offsetOfAddress (addr : Nat) : BitVec 12 := BitVec.ofNat 12 addr

/-- `MemRead(addr, size)` for an address of the window `ECE_BASE + off`: the value it returns (R12, R101, R104). -/
def memRead (addr : Nat) (size : BusSize) (s : State) : Word := readData false (offsetOfAddress addr) size s

/-- `MemWrite(addr, size, v)` for an address of the window `ECE_BASE + off`; it returns no data (R12, R102). -/
def memWrite (addr : Nat) (size : BusSize) (v : Word) (s : State) : Host.Outcome State Fault Refusal :=
  performBus (.write (offsetOfAddress addr) size v) s

end Sys2Proof.Machine
end

