-- ==== Sys2Proof/Machine/HostRun.lean ====
section
/-! DEFINITION. The host agent's step: one statement of its program (30_encoding.md R150 to R152, 46_host_protocol.md). -/

namespace Sys2Proof.Machine

/-! ### The notation -/

/-- `WR r, v` (R150). -/
def stmtWr (r : RegName) (v : Word) : Stmt := .bus (.write (offsetOf r) .four v)

/-- `RD r` (R150). -/
def stmtRd (r : RegName) : Stmt := .bus (.read (offsetOf r) .four)

/-- The statements a source line stands for; `line` is its place in the source, which names the label of a `WAIT`
(R150, R151). -/
def expandLine (line : Nat) : HostLine → List Stmt
  | .wr r v => [stmtWr r v]
  | .rd r => [stmtRd r]
  | .label n => [.label (.named n)]
  | .bnz r mask n => [.bnz r mask (.named n)]
  | .cmd i => [stmtWr .cmd (encode i)]
  | .wait => [.label (.wait line), .bnz .status 0x1 (.wait line)]
  | .ldkey a => (List.finRange 8).map fun k => stmtWr (.key k) (wordAt a k.val)
  | .ldiv a => (List.finRange 4).map fun k => stmtWr (.iv k) (wordAt a k.val)
  | .lddin a => (List.finRange 4).map fun k => stmtWr (.din k) (wordAt a k.val)
  | .ldck a => (List.finRange 8).map fun k => stmtWr (.ck k) (wordAt a k.val)
  | .ack mask => [stmtWr .intStatus mask]
  | .step st => [st]

/-- The statements of the source lines `line`, `line + 1`, …. -/
def expandFromLine : Nat → List HostLine → List Stmt
  | _, [] => []
  | line, l :: ls => expandLine line l ++ expandFromLine (line + 1) ls

/-- The program a source text stands for (R151). -/
def expandProgram (src : List HostLine) : List Stmt := expandFromLine 0 src

/-- The bus transaction a statement makes, if it makes one: a program's encoding is the list of these (R152). -/
def stmtBusOp : Stmt → Option BusOp
  | .bus b => some b
  | .label _ => none
  | .bnz r _ _ => some (.read (offsetOf r) .four)
  | .failIf r _ _ _ => some (.read (offsetOf r) .four)
  | .fail _ => none
  | .collect r => some (.read (offsetOf r) .four)
  | .emit => none
  | .emitLen r => some (.read (offsetOf r) .four)
  | .print r _ _ => some (.read (offsetOf r) .four)
  | .waitIrq => none
  | .report => some (.read (offsetOf .status) .four)

/-- The encoding of a program (R152). -/
def encodeProgram (p : List Stmt) : List BusOp := p.filterMap stmtBusOp

/-! ### Running a program -/

/-- The state with the host agent changed. -/
def State.onHost (f : HostAgent → HostAgent) (s : State) : State := { s with host := f s.host }

/-- The host goes on to the next statement. -/
def HostAgent.advance (h : HostAgent) : HostAgent := { h with pc := h.pc + 1 }

/-- The host, already past a statement, goes back to it. -/
def HostAgent.stay (h : HostAgent) : HostAgent := { h with pc := h.pc - 1 }

/-- The host records the value of a read in its trace (R150). -/
def HostAgent.record (v : Word) (h : HostAgent) : HostAgent := { h with trace := h.trace ++ [v] }

/-- The host continues at a label of its program (R150, R218). Of a label that the program defines more than once it takes
the first definition, and a label that the program does not define ends the program: both are the model's choice
(DESIGN CHOICE, log entry 9); the spec says of neither where the program continues. -/
def HostAgent.goto (l : Label) (h : HostAgent) : HostAgent := { h with pc := h.program.findIdx (· == .label l) }

/-- The host keeps the four bytes of a register word. -/
def HostAgent.keep (v : Word) (h : HostAgent) : HostAgent := { h with buffer := h.buffer ++ unpackWord v }

/-- The host gives the first `n` kept bytes to the output sink: a writing run appends them to the output file, a dry run
emits nothing (R491). -/
def HostAgent.emitBytes (n : Nat) (h : HostAgent) : HostAgent :=
  { h with
    buffer := []
    outputFile := match h.outputPath with
      | none => h.outputFile
      | some _ => some (h.outputFile.getD [] ++ h.buffer.take n) }

/-- A hex digit, in lower case: R495 says only that the hashes are printed as hex strings, and R9 shows lower case in its
literals without asking for it (DESIGN CHOICE, log entry 28). -/
def hexDigit (n : BitVec 4) : Char := "0123456789abcdef".toList.getD n.toNat '0'

/-- Bytes as hex, byte 0 first (R495), two digits a byte with the high digit first, as R9 writes its literals. That
nothing stands between the digits or before them is the model's choice (DESIGN CHOICE, log entry 28). -/
def toHex (bs : List Byte) : List Char :=
  bs.flatMap fun b => [hexDigit (b.extractLsb' 4 4), hexDigit (b.extractLsb' 0 4)]

/-- The host prints the first `n` kept bytes as a hex string (R495). -/
def HostAgent.printBytes (n : Nat) (h : HostAgent) : HostAgent :=
  { h with buffer := [], printed := h.printed ++ [toHex (h.buffer.take n)] }

/-- The run ends. -/
def HostAgent.finish (o : RunOutcome) (h : HostAgent) : HostAgent := { h with outcome := o }

/-- A fatal error ends the run at once. `PARTIAL_OUTPUT` says what a writing run leaves at the output path: the file with
the bytes written so far, or no file; a dry run leaves it alone (R492, R494, log entry 13). -/
def HostAgent.failRun (e : HostError) (h : HostAgent) : HostAgent :=
  { h with
    outcome := .failed e
    outputFile := match h.outputPath, h.partialOutput with
      | some _, .removed => none
      | _, _ => h.outputFile }

/-- The outcome a run ends with at its report: `MATCH` is bit 6 of `STATUS` (R48, R495). -/
def reportOutcome (status : Word) : RunOutcome :=
  if status.getLsbD 6 then .success else .integrityWarning

/-- The host performs one statement. `s` is the state with the host already past it. -/
def performStmt (st : Stmt) (s : State) : Host.Outcome State Fault Refusal :=
  match st with
  | .bus (.read off size) =>
    if BusOp.aligned (.read off size) then .next (s.onHost (.record (readOffset s off)))
    else .fault (.busError (.read off size))
  | .bus (.write off size v) => performBus (.write off size v) s
  | .label _ => .next s
  | .bnz r mask l =>
    if readRegister s r &&& mask = 0 then .next s else .next (s.onHost (.goto l))
  | .failIf r mask value e =>
    if readRegister s r &&& mask = value then .next (s.onHost (.failRun e)) else .next s
  | .fail e => .next (s.onHost (.failRun e))
  | .collect r => .next (s.onHost (.keep (readRegister s r)))
  | .emit => .next (s.onHost fun h => h.emitBytes h.buffer.length)
  | .emitLen r => .next (s.onHost (.emitBytes (readRegister s r).toNat))
  | .print r lo len => .next (s.onHost (.printBytes ((readRegister s r).extractLsb' lo len).toNat))
  | .waitIrq => if s.irq then .next s else .next (s.onHost .stay)
  | .report => .next (s.onHost (.finish (reportOutcome (readRegister s .status))))

/-- The next statement of the host, if its run goes on and its program has one. -/
def HostAgent.nextStmt (h : HostAgent) : Option Stmt :=
  match h.outcome with
  | .running => h.program[h.pc]?
  | _ => none

/-- The host's step: its next statement; a host with nothing left to do presents no transaction. -/
def hostStep (s : State) : Host.Outcome State Fault Refusal :=
  match s.host.nextStmt with
  | some st => performStmt st (s.onHost .advance)
  | none => .next s

/-- The host with a statement put before its next one, its run going on. -/
def HostAgent.insertNext (st : Stmt) (h : HostAgent) : HostAgent :=
  let k := min h.pc h.program.length
  { h with program := h.program.take k ++ st :: h.program.drop k, pc := k, outcome := .running }

/-- The host loaded with a program from outside, at its first statement. -/
def State.loadProgram (p : List Stmt) (s : State) : State := { s with host := { HostAgent.idle with program := p } }

end Sys2Proof.Machine
end

