-- ==== Sys2Proof/Machine/Schedule.lean ====
section
/-! DEFINITION. The three agents and the order in which they move (00_scope.md R8, 40_control.md R208, R541). -/

namespace Sys2Proof.Machine

/-- The step of one agent (R8). -/
def agentStep (a : Agent) (s : State) : Host.Outcome State Fault Refusal :=
  match a with
  | .host => hostStep s
  | .engine => .next (complete s)
  | .reset => .next s.softReset

/-- The agent that moves next: the head of the schedule. Past its end the command in flight completes, if there is one,
and else the host moves, so that a command in flight always completes (R208, log entry 1). -/
def nextAgent (s : State) : Agent :=
  match s.schedule with
  | a :: _ => a
  | [] => if s.busy then .engine else .host

/-- The state with the head of the schedule taken. -/
def State.popSchedule (s : State) : State := { s with schedule := s.schedule.tail }

/-- One step of the system: one agent moves, and only that agent (R541). -/
def systemStep (s : State) : Host.Outcome State Fault Refusal := agentStep (nextAgent s) s.popSchedule

/-- The state in which the host's next statement writes `w` to `CMD` and the host moves next. -/
def State.withCommand (w : Word) (s : State) : State :=
  { s with host := s.host.insertNext (stmtWr .cmd w), schedule := .host :: s.schedule }

/-- A run is over when the host has performed its last statement and no command is in flight (R596). -/
def State.runOver (s : State) : Bool := s.host.nextStmt.isNone && !s.busy

end Sys2Proof.Machine
end

