-- ==== Sys2Proof/Machine/Step.lean ====
section
/-! DEFINITION. One step of the machine, and how a command word is put where the next step takes it. -/

namespace Sys2Proof.Machine

/-- One atomic step: a host statement, a completion or a reset (R8, R40, R541). -/
def step (s : State) : Host.Outcome State Fault Refusal := systemStep s

/-- The engine fetches nothing (R41): its next instruction is the host's next write of `CMD`. So the word is put there,
and the host is scheduled first. -/
def State.withFetchWord (s : State) (nbits w : Nat) : State := s.withCommand (commandWord nbits w)

end Sys2Proof.Machine
end

