-- ==== Sys2Proof/Machine/Driver.lean ====
section
/-! DEFINITION. The host protocol (46_host_protocol.md): the container reader, the key derivation and password check,
and the driver program they lead to. -/

namespace Sys2Proof.Machine

/-- What a run is given: the input path and its container, the password, the flags of the command line, what the host
finds in the file system, and the OPEN host parameters (R7, R480 to R492). -/
structure RunRequest where
  /-- The input path (R492). -/
  inputPath : Path
  /-- The container, the bytes of the file at the input path, `none` when it is missing (R480, R493). -/
  file : Option (List Byte)
  /-- The password's UTF-8 bytes, `none` when none is supplied (R486). -/
  password : Option (List Byte)
  /-- Override mode (R488). -/
  override : Bool
  /-- The no-write flag (R491). -/
  dryRun : Bool
  /-- Overwriting is forced (R492). -/
  force : Bool
  /-- The bytes of the file that is at the output path before the run, `none` when there is none (R492). -/
  existing : Option (List Byte)
  /-- The chunk, counted from 0 and the final chunk included, whose exact-length read comes short while the stream is
  running, `none` when every one is read whole (R480, R489, R493). -/
  shortChunk : Option Nat
  /-- `MAGIC`, OPEN (R482). -/
  magic : Bytes 3
  /-- `SUPPORTED_MAJOR`, OPEN (R483). -/
  supportedMajor : Byte
  /-- `PARTIAL_OUTPUT`, OPEN (R492). -/
  partialOutput : PartialOutput
  deriving DecidableEq, Repr

/-- What the Reader reads from a container (R155, R481). -/
structure Container where
  iv : Bytes 16
  salt : List Byte
  pwhash : List Byte
  /-- The ciphertext data region. -/
  data : List Byte
  ck : Bytes 32
  deriving DecidableEq, Repr

/-- An exact-length read of `len` bytes at offset `off`; a short read is an `IOError` (R480). -/
def readExact (f : List Byte) (off len : Nat) : Except HostError (List Byte) :=
  if off + len ≤ f.length then .ok ((f.drop off).take len) else .error .io

/-- One byte of the container (R481). -/
def readByte (f : List Byte) (off : Nat) : Except HostError Byte := (readExact f off 1).map (·.getD 0 0)

/-- The Reader: its reads and checks in the order of R481. -/
def readContainer (magic : Bytes 3) (supportedMajor : Byte) (f : List Byte) : Except HostError Container := do
  let sig ← readExact f 0x00 3
  if sig ≠ magic.toList then throw .format
  let major ← readByte f 0x03
  if major ≠ supportedMajor then throw (.unsupportedVersion major f[4]?)
  let _minor ← readByte f 0x04
  let iv ← readExact f Config.ivOffset 16
  let salt ← readExact f 0x53 16
  let pwhash ← readExact f 0x63 64
  if f.length ≤ Config.dataOffset + Config.ckLen then throw .io
  let ckOff := f.length - Config.ckLen
  let data ← readExact f Config.dataOffset (ckOff - Config.dataOffset)
  let ck ← readExact f ckOff Config.ckLen
  return { iv := padTo 16 iv, salt := salt, pwhash := pwhash, data := data, ck := padTo 32 ck }

/-- `h := SHA512(pw || salt)`; an absent password is the empty byte array (R486). -/
def deriveHash (password : Option (List Byte)) (salt : List Byte) : List Byte :=
  sha512Digest (password.getD [] ++ salt)

/-- The key, `h[0..32)` (R486). -/
def derivedKey (h : List Byte) : Bytes 32 := padTo 32 (h.take 32)

/-- The password check, which override mode skips (R487, R488). -/
def checkPassword (override : Bool) (h pwhash : List Byte) : Except HostError Unit :=
  if override || h == pwhash then .ok () else .error .authentication

/-- The output path, the input path with its final extension removed; a dry run has none (R491, R492). `stripExt` removes
the final extension. It is left uninterpreted: it differs from the identity exactly on the paths that have an extension
(93_implementation_defined.md), so that is how the model asks whether a path has one. -/
def outputPathOf (stripExt : Path → Path) (r : RunRequest) : Option Path :=
  if r.dryRun then none else some (stripExt r.inputPath)

/-- The destination check (R492, D39, D48): in a writing run, an input path without an extension and, unless forced, an
existing file at the output path are I/O errors. -/
def checkDestination (stripExt : Path → Path) (r : RunRequest) : Except HostError Unit :=
  match outputPathOf stripExt r with
  | none => .ok ()
  | some path =>
    if path = r.inputPath then .error .io
    else if r.existing.isSome && !r.force then .error .io
    else .ok ()

/-- Four reads that keep the words of `DOUT`. -/
def collectDout : List HostLine := (List.finRange 4).map fun k => .step (.collect (.dout k))

/-- `LDDIN b ; CMD DECRYPT_BLOCK ; WAIT`, and the block's plaintext to the sink (R489). -/
def blockLines (b : Bytes 16) : List HostLine :=
  [.lddin b, .cmd .decryptBlock, .wait] ++ collectDout ++ [.step .emit]

/-- The bits of `STATUS.SSTATE` (R48). -/
def sstateMask : Word := 0x06

/-- `SSTATE = ERROR` in place (R50). -/
def sstateErrorBits : Word := 0x06

/-- The bits of `STATUS.CKSTATE` (R48). -/
def ckstateMask : Word := 0x18

/-- `CKSTATE = ERROR` in place (R51). -/
def ckstateErrorBits : Word := 0x10

/-- The last block by `DECRYPT_FINAL`, its padding error, and its plaintext to the sink (R490). -/
def finalBlockLines (b : Bytes 16) : List HostLine :=
  [.lddin b, .cmd .decryptFinal, .wait, .step (.failIf .status sstateMask sstateErrorBits .paddingStream)] ++
    collectDout ++ [.step (.emitLen .doutLen)]

/-- The first `n` 16-byte blocks of the data, each a `DECRYPT_BLOCK`. -/
def blocksLines : Nat → List Byte → List HostLine
  | 0, _ => []
  | n + 1, d => blockLines (padTo 16 (d.take 16)) ++ blocksLines n (d.drop 16)

/-- The final chunk of `r` bytes: no partial block is sent (R490). -/
def finalChunkLines (d : List Byte) : List HostLine :=
  if d.length % 16 ≠ 0 then [.step (.fail .paddingLength)]
  else blocksLines (d.length / 16 - 1) d ++ finalBlockLines (padTo 16 (d.drop (16 * (d.length / 16 - 1))))

/-- The chunk loop: while more than `CHUNK_SIZE` bytes remain, one chunk; then the final chunk (R489, R490). Each chunk is
read before its blocks are sent. When the read of chunk `short` comes short the run ends with `IOError` and the stream is
abandoned (R480, R493). The second argument bounds the number of chunks. -/
def chunkLines : Option Nat → Nat → List Byte → List HostLine
  | some 0, _, _ => [.step (.fail .io)]
  | _, 0, d => finalChunkLines d
  | short, fuel + 1, d =>
    if d.length > Config.chunkSize then
      blocksLines (Config.chunkSize / 16) (d.take Config.chunkSize) ++
        chunkLines (short.map (· - 1)) fuel (d.drop Config.chunkSize)
    else finalChunkLines d

/-- The report: the expected hash and the content hash are printed as hex, and `MATCH` decides the outcome (R495).
`EXP_LEN` is bits [5:0] of its register (R68) and `HASH_LEN` bits [13:8] of `CFG` (R46). -/
def reportLines : List HostLine :=
  (List.finRange 8).map (fun k => .step (.collect (.exp k))) ++ [.step (.print .expLen 0 6)] ++
    (List.finRange 8).map (fun k => .step (.collect (.digest k))) ++ [.step (.print .cfg 8 6), .step .report]

/-- The driver sequence of R497 from `LDKEY` to the report; `short` is the chunk whose read comes short, if one does. -/
def driverLines (key : Bytes 32) (c : Container) (short : Option Nat) : List HostLine :=
  [.ldkey key, .ldiv c.iv, .wr .intEn 0, .ldck c.ck, .cmd .ckDecrypt, .wait,
    .step (.failIf .status ckstateMask ckstateErrorBits .paddingChecksum), .cmd .initStream, .wait] ++
    chunkLines short (c.data.length / Config.chunkSize) c.data ++ [.cmd .compare, .wait] ++ reportLines

/-- What the host does before its first engine command, and the driver program it then runs (R497). -/
def planRun (stripExt : Path → Path) (r : RunRequest) : Except HostError (List HostLine) := do
  let f ← match r.file with
    | some f => pure f
    | none => throw .io
  let c ← readContainer r.magic r.supportedMajor f
  let h := deriveHash r.password c.salt
  checkPassword r.override h c.pwhash
  checkDestination stripExt r
  return driverLines (derivedKey h) c r.shortChunk

/-- The output file once the destination check has passed: a writing run starts it empty, in place of a file that force
lets it replace; a dry run touches nothing. The spec does not say when a writing run creates its file (DESIGN CHOICE,
log entry 13). -/
def openOutput (r : RunRequest) : Option (List Byte) := if r.dryRun then r.existing else some []

/-- The host given a run: it fails before any command and leaves the file at the output path as it was, or its driver
program is loaded (R487, R492, R493, R497). -/
def startRun (stripExt : Path → Path) (r : RunRequest) (s : State) : State :=
  match planRun stripExt r with
  | .error e => { s with host := { HostAgent.idle with outcome := .failed e, outputFile := r.existing } }
  | .ok src =>
    { s with host := { HostAgent.idle with
        program := expandProgram src, outputPath := outputPathOf stripExt r, outputFile := openOutput r,
        partialOutput := r.partialOutput } }

/-- The exit status of a run that has ended: 0 with or without the warning, some non-zero value after a fatal error
(R494). -/
def exitStatus : RunOutcome → Option Nat
  | .running => none
  | .success => some 0
  | .integrityWarning => some 0
  | .failed .format => some (Config.failureStatusBeyondOne 0 + 1)
  | .failed (.unsupportedVersion _ _) => some (Config.failureStatusBeyondOne 1 + 1)
  | .failed .authentication => some (Config.failureStatusBeyondOne 2 + 1)
  | .failed .io => some (Config.failureStatusBeyondOne 3 + 1)
  | .failed .paddingChecksum => some (Config.failureStatusBeyondOne 4 + 1)
  | .failed .paddingStream => some (Config.failureStatusBeyondOne 5 + 1)
  | .failed .paddingLength => some (Config.failureStatusBeyondOne 6 + 1)

end Sys2Proof.Machine
end

