-- ==== Sys2Proof/Safety.lean ====
section
/-! DEFINITION. What holds of every reachable state of the engine: the invariants of 10_state.md R82 with the register
rules they rest on, and what it is for two states to agree on the content stream. -/

namespace Sys2Proof.Machine

/-- The invariants of R82, the reserved bits of R57 to R59, the zero bytes of R63, R67 and R69, and what a command in
flight was issued under (R205). -/
structure EngineInv (s : State) : Prop where
  /-- `BUSY = 0` exactly when `PEND = 0` (R82). -/
  busyPend : s.busy = true ↔ s.pend ≠ none
  /-- `DOUT_LEN ≤ 16` (R82). -/
  doutLen : s.doutLen ≤ 16
  /-- `EXP_LEN` is 0 or in 16..31 (R82). -/
  expLen : s.expLen = 0 ∨ (16 ≤ s.expLen ∧ s.expLen ≤ 31)
  /-- `EXP_LEN ≠ 0` exactly when `CKSTATE = VALID` (R82). -/
  expValid : s.expLen ≠ 0 ↔ s.ckstate = .valid
  /-- `MATCH = 1` only when `CMP_VALID = 1` (R82). -/
  matchCompared : s.matchBit = true → s.cmpValid = true
  /-- `CMP_VALID = 1` only when `SSTATE = DONE` and `CKSTATE = VALID` (R82). -/
  comparedDone : s.cmpValid = true → s.sstate = .done ∧ s.ckstate = .valid
  /-- `len(HBUF) = HCOUNT mod 64` (R82). -/
  hbufLength : s.hbuf.length = s.hcount.toNat % 64
  /-- `DIGEST ≠ zeros(32)` only when `SSTATE = DONE` (R82). -/
  digestDone : s.digest ≠ zeros 32 → s.sstate = .done
  /-- `HSTATE` belongs to `HASH_ALG` (R77). -/
  hashAlg : s.hstate.alg = s.hashAlg
  /-- `DOUT` reads 0x00 from index `DOUT_LEN` on (R63). -/
  doutTail : ∀ i, s.doutLen ≤ i → byteAt s.dout i = 0
  /-- `EXP` reads 0x00 from index `EXP_LEN` on (R67). -/
  expTail : ∀ i, s.expLen ≤ i → byteAt s.exp i = 0
  /-- `DIGEST` reads 0x00 from index `HASH_LEN` on (R69). -/
  digestTail : ∀ i, s.hashAlg.hashLen ≤ i → byteAt s.digest i = 0
  /-- The reserved bits of `ERRFLAGS` are 0 (R57). -/
  errflagsReserved : s.errflags &&& ~~~errMask = 0
  /-- The reserved bits of `INT_EN` are 0 (R58). -/
  intEnReserved : s.intEn &&& ~~~intMask = 0
  /-- The reserved bits of `INT_STATUS` are 0 (R59). -/
  intStatusReserved : s.intStatus &&& ~~~intMask = 0
  /-- The code in `ERRCODE` has its bit in `ERRFLAGS` (R531). -/
  errcodeFlagged : ∀ e, s.errcode = some e → s.errflags &&& errorBit e ≠ 0
  /-- `ERRCODE` is 0 only with every flag clear (R56, R57). -/
  noErrorNoFlag : s.errcode = none → s.errflags = 0
  /-- The command in flight is legal in the state it completes in (R205). -/
  pendLegal : ∀ c, s.pend = some c → s.legal c = true

/-- The two states agree on everything the content stream reads and writes (R251). -/
structure SameStream (s t : State) : Prop where
  hashAlg : s.hashAlg = t.hashAlg
  sstate : s.sstate = t.sstate
  dout : s.dout = t.dout
  doutLen : s.doutLen = t.doutLen
  hcount : s.hcount = t.hcount
  digest : s.digest = t.digest
  chain : s.chain = t.chain
  hstate : s.hstate = t.hstate
  hbuf : s.hbuf = t.hbuf

/-- The two states agree on everything the checksum unit writes but `CMP_VALID` and `MATCH` (R250). -/
structure SameChecksum (s t : State) : Prop where
  ckstate : s.ckstate = t.ckstate
  exp : s.exp = t.exp
  expLen : s.expLen = t.expLen

/-- The two states agree on the operand latches (R76). -/
structure SameLatches (s t : State) : Prop where
  lKey : s.lKey = t.lKey
  lIv : s.lIv = t.lIv
  lDin : s.lDin = t.lDin
  lCk : s.lCk = t.lCk

/-- The two states agree on every result register of the engine: what only a completion, `SOFT_RESET` or reset may
change (R206, R594). -/
structure SameResults (s t : State) : Prop where
  stream : SameStream s t
  ckstate : s.ckstate = t.ckstate
  cmpValid : s.cmpValid = t.cmpValid
  matchBit : s.matchBit = t.matchBit
  exp : s.exp = t.exp
  expLen : s.expLen = t.expLen

/-- A read of the register group at `base` returns the byte `v` as byte `i` of its array: in word `i div 4`, at bits
`8*(i mod 4)+7 : 8*(i mod 4)` (R11). -/
def ReadsByte (s : State) (base i : Nat) (v : Byte) : Prop :=
  (readOffset s (BitVec.ofNat 12 (base + 4 * (i / 4)))).extractLsb' (8 * (i % 4)) 8 = v

/-- `x` is the hex string of the bytes: two digits a byte, byte 0 first, the high digit first (R9, R495), in lower case and
with nothing between the digits (DESIGN CHOICE, log entry 28). -/
def IsHexOf (x : List Char) (bs : List Byte) : Prop :=
  x.length = 2 * bs.length ∧ ∀ i < bs.length,
    x[2 * i]? = some (Nat.digitChar ((bs.getD i 0).toNat / 16)) ∧
    x[2 * i + 1]? = some (Nat.digitChar ((bs.getD i 0).toNat % 16))

/-- The bus transactions one after the other, up to the first that does not go on. -/
def performAll : List BusOp → State → Host.Outcome State Fault Refusal
  | [], s => .next s
  | b :: bs, s =>
    match performBus b s with
    | .next t => performAll bs t
    | o => o

/-- The host's statements one after the other, up to the first that does not go on. -/
def performStmts : List Stmt → State → Host.Outcome State Fault Refusal
  | [], s => .next s
  | st :: sts, s =>
    match performStmt st s with
    | .next t => performStmts sts t
    | o => o

/-- `compress` is SHA-1's: from the chaining value, eighty rounds with the words of the schedule, then the addition; each
constant is `floor(2^30 * sqrt(d))` for its `d` (R421, R425). -/
def IsSha1Compress (compress : Vector Word 5 → List Byte → Vector Word 5) : Prop :=
  ∃ k : Nat → Word,
    (∀ t < 80, ∃ d, [2, 3, 5, 10][t / 20]? = some d ∧
      (k t).toNat ^ 2 ≤ d * 2 ^ 60 ∧ d * 2 ^ 60 < ((k t).toNat + 1) ^ 2) ∧
    ∀ (h : Vector Word 5) (m : List Byte), m.length = 64 → ∃ a b c d e : Nat → Word,
      (∀ i : Fin 5, h[i] = [a 0, b 0, c 0, d 0, e 0][i]) ∧
      (∀ t < 80,
        let f := if t < 20 then (b t &&& c t) ^^^ (~~~(b t) &&& d t)
          else if 40 ≤ t ∧ t < 60 then (b t &&& c t) ^^^ (b t &&& d t) ^^^ (c t &&& d t)
          else b t ^^^ c t ^^^ d t
        e (t + 1) = d t ∧ d (t + 1) = c t ∧ c (t + 1) = (b t).rotateLeft 30 ∧ b (t + 1) = a t ∧
          a (t + 1) = (a t).rotateLeft 5 + f + e t + k t + (sha1Schedule m).getD t 0) ∧
      ∀ i : Fin 5, (compress h m)[i] = h[i] + [a 80, b 80, c 80, d 80, e 80][i]

/-- `compress` is the SHA-2 function of words of `n` bytes and the given number of rounds, with the rotations of Σ0 and Σ1
and the two rotations and the shift of σ0 and σ1: constants, schedule, rounds and addition (R430, R431, R434, R435, and
R440, R441, R443). Constant `t` holds the first bits of the fractional part of the cube root of prime number `t`. -/
def IsSha2Compress {w : Nat} (n rounds : Nat) (big0 big1 small0 small1 : Nat × Nat × Nat)
    (compress : Vector (BitVec w) 8 → List Byte → Vector (BitVec w) 8) : Prop :=
  ∃ k : Nat → BitVec w,
    (∀ t < rounds, ∃ x, x ^ 3 ≤ Nat.nth Nat.Prime t * 2 ^ (3 * w) ∧ Nat.nth Nat.Prime t * 2 ^ (3 * w) < (x + 1) ^ 3 ∧
      k t = BitVec.ofNat w x) ∧
    ∀ (hash : Vector (BitVec w) 8) (m : List Byte), m.length = 16 * n → ∃ ws a b c d e f g h : Nat → BitVec w,
      (∀ t < 16, ∀ i < n, (ws t).extractLsb' (8 * (n - 1 - i)) 8 = m.getD (n * t + i) 0) ∧
      (∀ t, 16 ≤ t → t < rounds →
        let x := ws (t - 2)
        let y := ws (t - 15)
        ws t = (x.rotateRight small1.1 ^^^ x.rotateRight small1.2.1 ^^^ x >>> small1.2.2) + ws (t - 7) +
          (y.rotateRight small0.1 ^^^ y.rotateRight small0.2.1 ^^^ y >>> small0.2.2) + ws (t - 16)) ∧
      (∀ i : Fin 8, hash[i] = [a 0, b 0, c 0, d 0, e 0, f 0, g 0, h 0][i]) ∧
      (∀ t < rounds,
        let t1 := h t + ((e t).rotateRight big1.1 ^^^ (e t).rotateRight big1.2.1 ^^^ (e t).rotateRight big1.2.2) +
          ((e t &&& f t) ^^^ (~~~(e t) &&& g t)) + k t + ws t
        let t2 := ((a t).rotateRight big0.1 ^^^ (a t).rotateRight big0.2.1 ^^^ (a t).rotateRight big0.2.2) +
          ((a t &&& b t) ^^^ (a t &&& c t) ^^^ (b t &&& c t))
        h (t + 1) = g t ∧ g (t + 1) = f t ∧ f (t + 1) = e t ∧ e (t + 1) = d t + t1 ∧
          d (t + 1) = c t ∧ c (t + 1) = b t ∧ b (t + 1) = a t ∧ a (t + 1) = t1 + t2) ∧
      ∀ i : Fin 8, (compress hash m)[i] = hash[i] + [a rounds, b rounds, c rounds, d rounds, e rounds, f rounds, g rounds,
        h rounds][i]

/-- The host's next statement, if the host moves next, is a write of `w` to `CMD`. -/
def writesCommand (s : State) (w : Word) : Prop :=
  nextAgent s = .host ∧ s.host.nextStmt = some (.bus (.write 0x008 .four w))

/-- The hash of a whole message in one go: pad it, and compress its 64-byte blocks (R334, R426). -/
def messageDigest (alg : HashAlg) (m : List Byte) : List Byte :=
  let t := m ++ hashPad 64 56 m.length ++ wordBytes 8 (BitVec.ofNat 64 (8 * m.length))
  (foldBlocks HashState.compress 64 (t.length / 64) t (hashInit alg)).digest

/-- The CBC plaintext of a list of blocks, the first chained to `prev`: `P_j = AESDec256(K, C_j) xor C_(j-1)` (R280). -/
def cbcPlain (key : Bytes 32) : Bytes 16 → List (Bytes 16) → List Byte
  | _, [] => []
  | prev, c :: cs => (xorBytes (Aes.aesDec256 key c) prev).toList ++ cbcPlain key c cs

/-- A command run to its end: its checks and issue, then the engine's step (R206, R207). -/
def State.runCommand (c : LongCommand) (s : State) : State := complete (s.issueCommand c)

/-- One `DECRYPT_BLOCK` for each block, in order (R295). -/
def State.runBlocks : List (Bytes 16) → State → State
  | [], s => s
  | c :: cs, s => State.runBlocks cs (State.runCommand .decryptBlock { s with din := c })

end Sys2Proof.Machine
end

