-- ==== Sys2Proof/Certificates/Slice0/Obligations.lean ====
section
/-! DEFINITION. The statements for the provers, each named for what it says and citing the rule of spec/ it states. -/

section

open Sys2Proof Sys2Proof.Machine

/-! ### Encoding -/

/-- R141: the whole 32-bit word selects the command, so a word decodes to a command exactly when it is that command's
word of the table. -/
def Obligations.CommandWordsDecode : Prop :=
  (∀ (w : Word) (i : Instr), decode w = .ok i ↔ w = encode i) ∧
  encode .nop = 0x00000000 ∧ encode .softReset = 0x00000001 ∧ encode .initStream = 0x00000002 ∧
  encode .decryptBlock = 0x00000003 ∧ encode .decryptFinal = 0x00000004 ∧ encode .ckDecrypt = 0x00000005 ∧
  encode .compare = 0x00000006 ∧ encode .errClear = 0x00000007

/-- R141: some words of the table, read by the decoder (a sanity check). -/
def Obligations.SampleWordsDecode : Prop :=
  decode 0b00000000000000000000000000000000 = .ok .nop ∧ decode 0b00000000000000000000000000000011 = .ok .decryptBlock ∧
  decode 0b00000000000000000000000000000101 = .ok .ckDecrypt ∧ decode 0b00000000000000000000000000000110 = .ok .compare

/-- R43, R145: each register answers at its own offset and at no other, and the aligned offsets without a register are
the reserved ones of the map. -/
def Obligations.RegisterOffsets : Prop :=
  (∀ (off : BitVec 12) (r : RegName), regAt off = some r ↔ off = offsetOf r) ∧
  ∀ off : BitVec 12, off.toNat % 4 = 0 →
    (regAt off = none ↔ off.toNat = 0x07C ∨ (0x0C4 ≤ off.toNat ∧ off.toNat ≤ 0x0DC) ∨ 0x100 ≤ off.toNat)

/-- R11: byte `i` of an array sits in word `i div 4` at bits `8*(i mod 4)+7 : 8*(i mod 4)`, and `unpack` and `pack` are
each other's inverse. -/
def Obligations.PackedBytes : Prop :=
  (∀ (n : Nat) (a : Bytes n) (i : Nat), i < n → (wordAt a (i / 4)).extractLsb' (8 * (i % 4)) 8 = byteAt a i) ∧
  (∀ (m : Nat) (a : Bytes (4 * m)), unpack ((List.range m).map (wordAt a)) = a.toList) ∧
  ∀ (ws : List Word) (k : Nat), k < ws.length → wordAt (padTo (4 * ws.length) (unpack ws)) k = ws.getD k 0

/-! ### Dispatch and the control commands -/

/-- R202: a write of `CMD` is handled by the checks in their order, whatever the state. -/
def Obligations.CommandDispatch : Prop :=
  ∀ (w : Word) (s : State), writeOffset 0x008 w s = .next (
    if w.extractLsb' 8 24 ≠ 0 ∨ 8 ≤ (w.extractLsb' 0 8).toNat then s.recordError .illegalCmd
    else if w = 0x00 then s
    else if w = 0x01 then s.softReset
    else if w = 0x07 then { s with errcode := none, errflags := 0 }
    else if s.busy then s.recordError .busy
    else if w = 0x02 then s.issue .initStream
    else if w = 0x03 then if s.sstate = .stream then s.issue .decryptBlock else s.recordError .sequence
    else if w = 0x04 then if s.sstate = .stream then s.issue .decryptFinal else s.recordError .sequence
    else if w = 0x05 then s.issue .ckDecrypt
    else if s.sstate = .done ∧ s.ckstate = .valid then s.issue .compare else s.recordError .sequence)

/-- R203, R142: an illegal word is no command, and writing it records `ILLEGAL_CMD` and changes nothing else, whatever
the state. -/
def Obligations.IllegalCommandRecorded : Prop :=
  ∀ (w : Word) (s : State), w.extractLsb' 8 24 ≠ 0 ∨ 8 ≤ (w.extractLsb' 0 8).toNat →
    (∀ i, decode w ≠ .ok i) ∧
    writeOffset 0x008 w s = .next { s with
      errcode := some .illegalCmd, errflags := s.errflags ||| 0x08, intStatus := s.intStatus ||| 0x2 }

/-- R531, R530: what recording an error writes: its code, its flag bit and `INT_STATUS.ERR`, and nothing else. -/
def Obligations.ErrorRecord : Prop :=
  ∀ (s : State) (e : EngineError) (n : Nat),
    (e, n) ∈ [(EngineError.padStream, 1), (.padChecksum, 2), (.illegalCmd, 3), (.sequence, 4), (.busy, 5), (.locked, 6)] →
    s.recordError e =
      { s with errcode := some e, errflags := s.errflags ||| (1 <<< n), intStatus := s.intStatus ||| 0x2 } ∧
    readRegister (s.recordError e) .errcode = BitVec.ofNat 32 n ∧
    (readRegister (s.recordError e) .errflags).getLsbD n = true ∧ (s.recordError e).errBitSet = true

/-- R204: `NOP` completes in every state and changes nothing. -/
def Obligations.NopDoesNothing : Prop := ∀ s : State, exec .nop s = .next s

/-- R221, R85: `SOFT_RESET` completes in every state with every register at its reset value; nothing is then in flight,
and the `rst` port does the same. The build, the host and the schedule stay (the model's choice, log entries 17 and
18). -/
def Obligations.SoftResetValues : Prop :=
  ∀ s : State, ∃ t : State, exec .softReset s = .next t ∧ agentStep .reset s = .next t ∧
    t = { hashAlg := s.hashAlg, busy := false, sstate := .idle, ckstate := .empty, cmpValid := false, matchBit := false,
          pend := none, errcode := none, errflags := 0, intEn := 0, intStatus := 0, key := zeros 32, iv := zeros 16,
          din := zeros 16, dout := zeros 16, doutLen := 0, hcount := 0, ck := zeros 32, exp := zeros 32, expLen := 0,
          digest := zeros 32, chain := zeros 16, lKey := zeros 32, lIv := zeros 16, lDin := zeros 16, lCk := zeros 32,
          hstate := match s.hashAlg with
            | .sha1 => .sha1 #v[0x67452301, 0xefcdab89, 0x98badcfe, 0x10325476, 0xc3d2e1f0]
            | .sha256 => .sha256 #v[0x6a09e667, 0xbb67ae85, 0x3c6ef372, 0xa54ff53a, 0x510e527f, 0x9b05688c, 0x1f83d9ab,
                0x5be0cd19],
          hbuf := [], host := s.host, schedule := s.schedule } ∧
    readRegister t .status = 0 ∧ t.irq = false ∧ complete t = t

/-- R222: `ERR_CLEAR` completes in every state, clears `ERRCODE` and `ERRFLAGS` and changes nothing else; `STATUS.ERR`
then reads 0. -/
def Obligations.ErrClearClears : Prop :=
  ∀ s : State, ∃ t : State, exec .errClear s = .next t ∧ t = { s with errcode := none, errflags := 0 } ∧
    t.errBitSet = false

/-! ### Issue -/

/-- R206, R205: a command that is legal in its state, written while nothing is in flight, latches its operands and is in
flight; no other part of the state changes. -/
def Obligations.AcceptedIssue : Prop :=
  ∀ (s : State) (c : LongCommand), s.busy = false →
    (c = .initStream ∨ c = .ckDecrypt ∨ (c = .decryptBlock ∧ s.sstate = .stream) ∨
      (c = .decryptFinal ∧ s.sstate = .stream) ∨ (c = .compare ∧ s.sstate = .done ∧ s.ckstate = .valid)) →
    exec c.instr s = .next { s with
      lKey := s.key, lIv := s.iv, lDin := s.din, lCk := s.ck, pend := some c, busy := true }

/-! ### Commands from issue to completion -/

/-- R282: `INIT_STREAM` is accepted in every state with nothing in flight, and its completion sets exactly the fields of
its Completion block. -/
def Obligations.InitStreamCompletes : Prop :=
  (∀ s : State, s.busy = false → exec .initStream s = .next (s.issue .initStream)) ∧
  (∀ s : State, s.busy = true → exec .initStream s = .next (s.recordError .busy)) ∧
  ∀ s : State, s.busy = true → s.pend = some .initStream → agentStep .engine s = .next { s with
    chain := s.lIv, hstate := hashInit s.hashAlg, hbuf := [], hcount := 0, dout := zeros 16, doutLen := 0,
    digest := zeros 32, cmpValid := false, matchBit := false, sstate := .stream,
    pend := none, busy := false, intStatus := s.intStatus ||| 0x1 }

/-- R285: `DECRYPT_BLOCK` is accepted in `STREAM`, and its completion chains, outputs and absorbs the block's plaintext
and changes nothing else. -/
def Obligations.DecryptBlockCompletes : Prop :=
  (∀ s : State, s.busy = false → s.sstate = .stream → exec .decryptBlock s = .next (s.issue .decryptBlock)) ∧
  (∀ s : State, s.busy = false → s.sstate ≠ .stream → exec .decryptBlock s = .next (s.recordError .sequence)) ∧
  (∀ s : State, s.busy = true → exec .decryptBlock s = .next (s.recordError .busy)) ∧
  ∀ s : State, s.busy = true → s.pend = some .decryptBlock →
    let p := xorBytes (Aes.aesDec256 s.lKey s.lDin) s.chain
    agentStep .engine s = .next { s with
      chain := s.lDin, dout := p, doutLen := 16,
      hcount := (s.absorb p.toList).hcount, hstate := (s.absorb p.toList).hstate, hbuf := (s.absorb p.toList).hbuf,
      pend := none, busy := false, intStatus := s.intStatus ||| 0x1 }

/-- R290: `DECRYPT_FINAL` is accepted in `STREAM`; with a good padding its completion outputs and absorbs the unpadded
bytes and finalises the digest, with a malformed one it records `PAD_STREAM`; nothing else changes. -/
def Obligations.DecryptFinalCompletes : Prop :=
  (∀ s : State, s.busy = false → s.sstate = .stream → exec .decryptFinal s = .next (s.issue .decryptFinal)) ∧
  (∀ s : State, s.busy = false → s.sstate ≠ .stream → exec .decryptFinal s = .next (s.recordError .sequence)) ∧
  (∀ s : State, s.busy = true → exec .decryptFinal s = .next (s.recordError .busy)) ∧
  ∀ s : State, s.busy = true → s.pend = some .decryptFinal →
    let p := xorBytes (Aes.aesDec256 s.lKey s.lDin) s.chain
    let m := p.toList.take (16 - (byteAt p 15).toNat)
    (pkcs7Ok p = true → agentStep .engine s = .next { s with
      chain := s.lDin, dout := padTo 16 m, doutLen := 16 - (byteAt p 15).toNat,
      hcount := (s.absorb m).hcount, hstate := (s.absorb m).hstate, hbuf := (s.absorb m).hbuf,
      digest := padTo 32 (s.absorb m).finalize, sstate := .done,
      pend := none, busy := false, intStatus := s.intStatus ||| 0x1 }) ∧
    (pkcs7Ok p = false → agentStep .engine s = .next { s with
      chain := s.lDin, dout := zeros 16, doutLen := 0, sstate := .error,
      errcode := some .padStream, errflags := s.errflags ||| 0x02,
      pend := none, busy := false, intStatus := s.intStatus ||| 0x3 })

/-- R250: `CK_DECRYPT` is accepted in every state with nothing in flight; its completion decrypts the two latched blocks
as a CBC instance of its own and writes the expected hash, or records `PAD_CHECKSUM`; nothing else changes. -/
def Obligations.CkDecryptCompletes : Prop :=
  (∀ s : State, s.busy = false → exec .ckDecrypt s = .next (s.issue .ckDecrypt)) ∧
  (∀ s : State, s.busy = true → exec .ckDecrypt s = .next (s.recordError .busy)) ∧
  ∀ s : State, s.busy = true → s.pend = some .ckDecrypt →
    let c0 := padTo 16 (s.lCk.toList.take 16)
    let p0 := xorBytes (Aes.aesDec256 s.lKey c0) s.lIv
    let p1 := xorBytes (Aes.aesDec256 s.lKey (padTo 16 (s.lCk.toList.drop 16))) c0
    let n := (byteAt p1 15).toNat
    (pkcs7Ok p1 = true → agentStep .engine s = .next { s with
      cmpValid := false, matchBit := false, exp := padTo 32 ((p0.toList ++ p1.toList).take (32 - n)), expLen := 32 - n,
      ckstate := .valid, pend := none, busy := false, intStatus := s.intStatus ||| 0x1 }) ∧
    (pkcs7Ok p1 = false → agentStep .engine s = .next { s with
      cmpValid := false, matchBit := false, exp := zeros 32, expLen := 0, ckstate := .error,
      errcode := some .padChecksum, errflags := s.errflags ||| 0x04,
      pend := none, busy := false, intStatus := s.intStatus ||| 0x3 })

/-- R340, R341: `COMPARE` is accepted with both results present; its completion reports exact byte equality, a mismatch
also in `INT_STATUS.MISMATCH` and in no error register; nothing else changes. -/
def Obligations.CompareCompletes : Prop :=
  (∀ s : State, s.busy = false → s.sstate = .done → s.ckstate = .valid → exec .compare s = .next (s.issue .compare)) ∧
  (∀ s : State, s.busy = false → ¬(s.sstate = .done ∧ s.ckstate = .valid) →
    exec .compare s = .next (s.recordError .sequence)) ∧
  (∀ s : State, s.busy = true → exec .compare s = .next (s.recordError .busy)) ∧
  ∀ s : State, s.busy = true → s.pend = some .compare →
    (s.expLen = s.hashAlg.hashLen ∧ (∀ i < s.expLen, byteAt s.exp i = byteAt s.digest i) →
      agentStep .engine s = .next { s with
        cmpValid := true, matchBit := true, pend := none, busy := false, intStatus := s.intStatus ||| 0x1 }) ∧
    (¬(s.expLen = s.hashAlg.hashLen ∧ ∀ i < s.expLen, byteAt s.exp i = byteAt s.digest i) →
      agentStep .engine s = .next { s with
        cmpValid := true, matchBit := false, pend := none, busy := false, intStatus := s.intStatus ||| 0x5 })

/-- R343: in the `SHA256` build, every `COMPARE` that completes in a state the invariants allow reports a mismatch. -/
def Obligations.Sha256NeverMatches : Prop :=
  ∀ s : State, EngineInv s → s.hashAlg = .sha256 → s.busy = true → s.pend = some .compare →
    (complete s).cmpValid = true ∧ (complete s).matchBit = false ∧
    (complete s).intStatus = s.intStatus ||| 0x5 ∧ (complete s).errflags = s.errflags

/-! ### Padding and result lengths -/

/-- R297: the padding of a block is good exactly when its last byte `n` is 1 to 16 and the last `n` bytes all hold `n`. -/
def Obligations.PaddingRule : Prop :=
  ∀ p : Bytes 16, (pkcs7Ok p = true ↔
    1 ≤ (byteAt p 15).toNat ∧ (byteAt p 15).toNat ≤ 16 ∧
    (∀ i, 16 - (byteAt p 15).toNat ≤ i → i < 16 → byteAt p i = byteAt p 15)) ∧
    (pkcs7Ok p = true → pkcs7Len p = 16 - (byteAt p 15).toNat ∧ pkcs7Len p < 16)

/-- R254: a `CK_DECRYPT` that ends `VALID` leaves `EXP_LEN = 32 - n` with `1 ≤ n ≤ 16`, so 16 to 31, `n` being the last
byte of the decrypted checksum; the bytes of `EXP` from there on are 0. -/
def Obligations.ExpectedHashLength : Prop :=
  ∀ s : State, s.busy = true → s.pend = some .ckDecrypt → (complete s).ckstate = .valid →
    (∃ n, n = (byteAt s.checksumSecond 15).toNat ∧ 1 ≤ n ∧ n ≤ 16 ∧ (complete s).expLen = 32 - n) ∧
    16 ≤ (complete s).expLen ∧ (complete s).expLen ≤ 31 ∧
    ∀ i, (complete s).expLen ≤ i → byteAt (complete s).exp i = 0

/-! ### The accumulator and the stream -/

/-- R333: absorbing at most 16 bytes on at most 63 pending ones compresses at most once. -/
def Obligations.AbsorbShort : Prop :=
  ∀ (s : State) (m : List Byte), m.length ≤ 16 → s.hbuf.length ≤ 63 →
    s.absorb m =
      if s.hbuf.length + m.length < 64 then
        { s with hcount := s.hcount + BitVec.ofNat 64 m.length, hbuf := s.hbuf ++ m }
      else
        { s with
          hcount := s.hcount + BitVec.ofNat 64 m.length
          hstate := s.hstate.compress ((s.hbuf ++ m).take 64)
          hbuf := (s.hbuf ++ m).drop 64 }

/-- R336: absorbing in two parts leaves the same state as absorbing the whole, for any split. -/
def Obligations.AbsorbSplit : Prop :=
  ∀ (s : State) (a b : List Byte), State.absorb b (s.absorb a) = s.absorb (a ++ b)

/-- R334: the tail that `Finalize` compresses is `HBUF || 0x80 || zeros(z) || be64(8 * HCOUNT)` with the smallest `z`
that makes 56 modulo 64, and it is one or two blocks. -/
def Obligations.FinalizeTail : Prop :=
  ∀ s : State, s.hbuf.length ≤ 63 → ∃ z, (s.hbuf.length + 1 + z) % 64 = 56 ∧
    (∀ y, y < z → (s.hbuf.length + 1 + y) % 64 ≠ 56) ∧
    s.hashTail = s.hbuf ++ [0x80] ++ List.replicate z 0x00 ++
      (List.range 8).map (fun j => (8 * s.hcount).extractLsb' (8 * (7 - j)) 8) ∧
    (s.hashTail.length = 64 ∨ s.hashTail.length = 128)

/-- R334, R336: `Finalize` gives the hash of everything absorbed since `HashReset`, however it was split into absorbs,
and has the length of its algorithm. -/
def Obligations.FinalizeIsHash : Prop :=
  ∀ (s : State) (ms : List (List Byte)),
    (ms.foldl (fun t m => State.absorb m t) s.hashReset).finalize = messageDigest s.hashAlg ms.flatten ∧
    (messageDigest s.hashAlg ms.flatten).length = s.hashAlg.hashLen

/-- R280, R331: in an open stream with fewer than 64 pending bytes, as the invariants have it, one `DECRYPT_BLOCK` for
each of any number of blocks absorbs exactly their CBC plaintext, leaves the last ciphertext block in `CHAIN`, and leaves
the stream open with nothing in flight. -/
def Obligations.BlocksDecryptCbc : Prop :=
  ∀ (s : State) (cs : List (Bytes 16)), s.busy = false → s.sstate = .stream → s.hbuf.length ≤ 63 →
    let t := State.runBlocks cs s
    t.busy = false ∧ t.sstate = .stream ∧ t.key = s.key ∧ t.errflags = s.errflags ∧ t.ckstate = s.ckstate ∧
    t.chain = cs.getLastD s.chain ∧
    t.hstate = (s.absorb (cbcPlain s.key s.chain cs)).hstate ∧
    t.hbuf = (s.absorb (cbcPlain s.key s.chain cs)).hbuf ∧
    t.hcount = s.hcount + BitVec.ofNat 64 (16 * cs.length)

/-- R295, R299, R334: a data region decrypted by `INIT_STREAM`, a `DECRYPT_BLOCK` for each block but the last, and
`DECRYPT_FINAL` with a good padding of `n` bytes ends in `DONE` with the hash of the whole unpadded plaintext in
`DIGEST`, its last part in `DOUT`, and its length `16m - n` in `HCOUNT`. -/
def Obligations.RegionDecrypts : Prop :=
  ∀ (s : State) (cs : List (Bytes 16)) (c : Bytes 16), s.busy = false →
    let p := xorBytes (Aes.aesDec256 s.key c) (cs.getLastD s.iv)
    let n := (byteAt p 15).toNat
    let t := State.runBlocks cs (State.runCommand .initStream s)
    let u := State.runCommand .decryptFinal { t with din := c }
    pkcs7Ok p = true →
    u.sstate = .done ∧ u.busy = false ∧ u.dout = padTo 16 (p.toList.take (16 - n)) ∧ u.doutLen = 16 - n ∧
    u.hcount = BitVec.ofNat 64 (16 * (cs.length + 1) - n) ∧
    u.digest = padTo 32 (messageDigest s.hashAlg (cbcPlain s.key s.iv cs ++ p.toList.take (16 - n)))

/-- R251, R67, R282: the completion of a `CK_DECRYPT` changes nothing of the content stream, and its own result depends on
the latched operands alone; the completion of any other command leaves `EXP`, `EXP_LEN` and `CKSTATE` as they were, and
what it does to the stream depends on the stream and the latched operands alone. So neither can show in the other. -/
def Obligations.ChecksumIndependent : Prop :=
  (∀ s : State, s.pend = some .ckDecrypt → SameStream (complete s) s) ∧
  (∀ s t : State, SameLatches s t → s.busy = true → t.busy = true → s.pend = some .ckDecrypt →
    t.pend = some .ckDecrypt → SameChecksum (complete s) (complete t)) ∧
  (∀ s : State, s.pend ≠ some .ckDecrypt → SameChecksum (complete s) s) ∧
  ∀ (s t : State) (c : LongCommand), SameStream s t → SameLatches s t → c ≠ .ckDecrypt →
    s.busy = true → t.busy = true → s.pend = some c → t.pend = some c → SameStream (complete s) (complete t)

/-- R76, R207, R591: a completion never reads `KEY`, `IV`, `DIN` or `CK`, so a write of one of them before it or after it
gives the same state. -/
def Obligations.OperandsLatched : Prop :=
  ∀ (s : State) (k : Nat) (v : Word),
    complete (s.setKeyWord k v) = (complete s).setKeyWord k v ∧ complete (s.setIvWord k v) = (complete s).setIvWord k v ∧
    complete (s.setDinWord k v) = (complete s).setDinWord k v ∧ complete (s.setCkWord k v) = (complete s).setCkWord k v

/-! ### Register access -/

/-- R211, R45, R46, R47, R48, R50, R51, R55, R60: what every register reads in every state: the constants; 0 for `CMD` and
`KEY0`–`KEY7`; every field of `STATUS` at its place and by its number, with the rest 0; the code of the last error, the
error and interrupt registers; byte `i` of each readable array in word `i div 4`; the two halves of `HCOUNT`; and the two
lengths, where they are in the ranges the invariants give them. -/
def Obligations.RegisterReads : Prop :=
  ∀ s : State, readOffset s 0x000 = 0x45430100 ∧
    readOffset s 0x004 = (match s.hashAlg with | .sha1 => 0x00001400 | .sha256 => 0x00002001) ∧
    readOffset s 0x008 = 0 ∧
    (
      let v := readOffset s 0x00C
      v.getLsbD 0 = s.busy ∧
      v.extractLsb' 1 2 = (match s.sstate with | .idle => 0 | .stream => 1 | .done => 2 | .error => 3) ∧
      v.extractLsb' 3 2 = (match s.ckstate with | .empty => 0 | .valid => 1 | .error => 2) ∧
      v.getLsbD 5 = s.cmpValid ∧ v.getLsbD 6 = s.matchBit ∧ v.getLsbD 7 = (s.errflags != 0) ∧
      v.extractLsb' 8 8 = (match s.pend with
        | none => 0
        | some .initStream => 0x02
        | some .decryptBlock => 0x03
        | some .decryptFinal => 0x04
        | some .ckDecrypt => 0x05
        | some .compare => 0x06) ∧
      v.extractLsb' 16 16 = 0) ∧
    readOffset s 0x010 = (match s.errcode with
      | none => 0
      | some .padStream => 1
      | some .padChecksum => 2
      | some .illegalCmd => 3
      | some .sequence => 4
      | some .busy => 5
      | some .locked => 6) ∧
    readOffset s 0x014 = s.errflags ∧ readOffset s 0x018 = s.intEn ∧ readOffset s 0x01C = s.intStatus ∧
    (∀ k < 8, readOffset s (BitVec.ofNat 12 (0x020 + 4 * k)) = 0) ∧
    (∀ i < 16, ReadsByte s 0x040 i (byteAt s.iv i) ∧ ReadsByte s 0x050 i (byteAt s.din i) ∧
      ReadsByte s 0x060 i (byteAt s.dout i)) ∧
    (∀ i < 32, ReadsByte s 0x080 i (byteAt s.ck i) ∧ ReadsByte s 0x0A0 i (byteAt s.exp i) ∧
      ReadsByte s 0x0E0 i (byteAt s.digest i)) ∧
    readOffset s 0x078 ++ readOffset s 0x074 = s.hcount ∧
    (s.doutLen ≤ 16 → (readOffset s 0x070).toNat = s.doutLen) ∧
    (s.expLen ≤ 32 → (readOffset s 0x0C0).toNat = s.expLen)

/-- R216, R70: a write to a read-only register or to a reserved offset has no effect: only `CMD`, `INT_EN`,
`INT_STATUS`, `KEY`, `IV`, `DIN` and `CK` take writes; and the reserved offsets read 0. -/
def Obligations.ReadOnlyAndReserved : Prop :=
  ∀ (s : State) (off : BitVec 12) (v : Word), off.toNat % 4 = 0 →
    (¬(off.toNat = 0x008 ∨ off.toNat = 0x018 ∨ off.toNat = 0x01C ∨ (0x020 ≤ off.toNat ∧ off.toNat ≤ 0x05C) ∨
      (0x080 ≤ off.toNat ∧ off.toNat ≤ 0x09C)) → writeOffset off v s = .next s) ∧
    (off.toNat = 0x07C ∨ (0x0C4 ≤ off.toNat ∧ off.toNat ≤ 0x0DC) ∨ 0x100 ≤ off.toNat → readOffset s off = 0)

/-- R212, R213: a write of `INT_EN` keeps bits 2 to 0 and takes effect on `irq` in the same step; a write of `INT_STATUS`
clears the bits written as 1; neither changes anything else. -/
def Obligations.InterruptRegisterWrites : Prop :=
  (∀ (s : State) (v : Word), ∃ t : State, writeOffset 0x018 v s = .next t ∧ t = { s with intEn := v &&& 0x7 } ∧
    readOffset t 0x018 = v &&& 0x7 ∧ (t.irq = true ↔ s.intStatus &&& v &&& 0x7 ≠ 0)) ∧
  (∀ (s : State) (v : Word), writeOffset 0x01C v s = .next { s with intStatus := s.intStatus &&& ~~~v &&& 0x7 }) ∧
  (∀ s : State, writeOffset 0x01C 0xFFFFFFFF s = .next { s with intStatus := 0 }) ∧
  ∀ s : State, EngineInv s → writeOffset 0x01C 0 s = .next s

/-- R214, R80, R215: a write of `KEY` or `IV` while a stream is open or being opened records `LOCKED` and writes nothing;
otherwise, and for `DIN` and `CK` in every state, it writes the four bytes of its word and nothing else. -/
def Obligations.DataRegisterWrites : Prop :=
  ∀ (s : State) (v : Word),
    (s.sstate = .stream ∨ (s.busy = true ∧ s.pend = some .initStream) →
      (∀ k : Fin 8, writeOffset (BitVec.ofNat 12 (0x020 + 4 * k.val)) v s = .next (s.recordError .locked)) ∧
      ∀ k : Fin 4, writeOffset (BitVec.ofNat 12 (0x040 + 4 * k.val)) v s = .next (s.recordError .locked)) ∧
    (¬(s.sstate = .stream ∨ (s.busy = true ∧ s.pend = some .initStream)) →
      (∀ k : Fin 8, ∃ a : Bytes 32, writeOffset (BitVec.ofNat 12 (0x020 + 4 * k.val)) v s = .next { s with key := a } ∧
        ∀ i < 32, byteAt a i = if i / 4 = k.val then v.extractLsb' (8 * (i % 4)) 8 else byteAt s.key i) ∧
      ∀ k : Fin 4, ∃ a : Bytes 16, writeOffset (BitVec.ofNat 12 (0x040 + 4 * k.val)) v s = .next { s with iv := a } ∧
        ∀ i < 16, byteAt a i = if i / 4 = k.val then v.extractLsb' (8 * (i % 4)) 8 else byteAt s.iv i) ∧
    (∀ k : Fin 4, ∃ a : Bytes 16, writeOffset (BitVec.ofNat 12 (0x050 + 4 * k.val)) v s = .next { s with din := a } ∧
      ∀ i < 16, byteAt a i = if i / 4 = k.val then v.extractLsb' (8 * (i % 4)) 8 else byteAt s.din i) ∧
    ∀ k : Fin 8, ∃ a : Bytes 32, writeOffset (BitVec.ofNat 12 (0x080 + 4 * k.val)) v s = .next { s with ck := a } ∧
      ∀ i < 32, byteAt a i = if i / 4 = k.val then v.extractLsb' (8 * (i % 4)) 8 else byteAt s.ck i

/-- R44, R60, R61, R62, R66: what is written to `DIN`, `CK`, or `IV` while it is not locked, is read back, and every
other offset reads as before; after a write of `KEY` while it is not locked every offset reads as before. -/
def Obligations.WritesReadBack : Prop :=
  ∀ (s t : State) (r : RegName) (v : Word), writeOffset (offsetOf r) v s = .next t →
    ((∃ k, r = .iv k) ∧ s.locked = false ∨ (∃ k, r = .din k) ∨ (∃ k, r = .ck k) →
      readOffset t (offsetOf r) = v ∧ ∀ off, off ≠ offsetOf r → readOffset t off = readOffset s off) ∧
    ((∃ k, r = .key k) ∧ s.locked = false → ∀ off, readOffset t off = readOffset s off)

/-- R559: the key, the chain, the latches and the hash state cannot be read: two states that differ in them alone read
the same at every offset, and give the same interrupt output. -/
def Obligations.HiddenStateUnreadable : Prop :=
  ∀ (s : State) (k lk lc : Bytes 32) (ch li ld : Bytes 16) (h : HashState) (b : List Byte),
    let t := { s with key := k, chain := ch, lKey := lk, lIv := li, lDin := ld, lCk := lc, hstate := h, hbuf := b }
    (∀ off, readOffset t off = readOffset s off) ∧ t.irq = s.irq

/-- R81, R546: `irq` is high exactly when one of the three sources is both pending and enabled. -/
def Obligations.InterruptLine : Prop :=
  ∀ s : State, s.irq = true ↔ ∃ n < 3, s.intStatus.getLsbD n = true ∧ s.intEn.getLsbD n = true

/-- R104, R534, R535: an access of another size or alignment gets the error response, a read of that kind with 0 as read
data, and is a fault of the host's step; an aligned word access gets no error, and a read of that kind the register's
value; there is no other fault, and no step is refused. What `rdata` carries in the response to a write is any word `d`
(log entry 27). -/
def Obligations.BusErrors : Prop :=
  (∀ (s : State) (b : BusOp) (d : Word), b.size ≠ .four ∨ b.offset.toNat % 4 ≠ 0 →
    (busResponse false d b s).err = true ∧
    (∀ off size, b = .read off size → (busResponse false d b s).rdata = 0) ∧
    (nextAgent s = .host → s.host.nextStmt = some (.bus b) → step s = .fault (.busError b))) ∧
  (∀ (s : State) (b : BusOp) (d : Word), b.size = .four → b.offset.toNat % 4 = 0 →
    (busResponse false d b s).err = false ∧
    ∀ off, b = .read off .four → (busResponse false d b s).rdata = readOffset s off) ∧
  (∀ (s : State) (f : Fault), step s = .fault f → nextAgent s = .host ∧
    ∃ b, f = .busError b ∧ s.host.nextStmt = some (.bus b) ∧ (b.size ≠ .four ∨ b.offset.toNat % 4 ≠ 0)) ∧
  ∀ (s : State) (r : Refusal), step s ≠ .refused r

/-- R110, R101: a read of a register at an aligned offset records the register's value in the host's trace and changes
nothing of the engine. -/
def Obligations.ReadsArePure : Prop :=
  ∀ (s : State) (off : BitVec 12), off.toNat % 4 = 0 → nextAgent s = .host →
    s.host.nextStmt = some (.bus (.read off .four)) →
    step s = .next { s with
      schedule := s.schedule.tail
      host := { s.host with pc := s.host.pc + 1, trace := s.host.trace ++ [readOffset s off] } }

/-! ### Steps -/

/-- R202, R8: when the host moves next and its next statement writes to `CMD` a word that decodes to a command, the step
is that command's handling, in the state with the schedule's head taken and the host past the statement. -/
def Obligations.StepRunsDecoded : Prop :=
  ∀ (s : State) (w : Word) (i : Instr), nextAgent s = .host →
    s.host.nextStmt = some (.bus (.write 0x008 .four w)) → decode w = .ok i →
    step s = exec i { s with schedule := s.schedule.tail, host := { s.host with pc := s.host.pc + 1 } }

/-- The model's choice of log entry 3: a command word put by `withFetchWord` is run by the very next step, on a state
that differs from the given one in the host alone. -/
def Obligations.FetchWordRuns : Prop :=
  ∀ (s : State) (nbits w : Nat) (i : Instr), decodeTableWord nbits w = some i →
    ∃ h : HostAgent, step (s.withFetchWord nbits w) = exec i { s with host := h }

/-- R207, R208, with the model's choice of log entry 1: with a command in flight, past the end of the schedule the next
step is its completion; and whenever the engine moves, the command ends, sets `DONE`, and the host stays where it was. -/
def Obligations.CommandCompletes : Prop :=
  ∀ s : State, s.busy = true → (s.schedule = [] ∨ s.schedule.head? = some .engine) →
    ∃ t, step s = .next t ∧ agentStep .engine { s with schedule := s.schedule.tail } = .next t ∧
      t.busy = false ∧ t.pend = none ∧ t.intStatus.getLsbD 0 = true ∧ t.host = s.host ∧
      t.schedule = s.schedule.tail

/-- R82: the invariants hold right after reset, in both builds. -/
def Obligations.InvariantAtReset : Prop :=
  EngineInv State.reset ∧ ∀ alg, EngineInv (State.resetOf alg)

/-- R82: every step keeps the invariants, in every state that has them. -/
def Obligations.InvariantKept : Prop :=
  ∀ s t : State, EngineInv s → step s = .next t → EngineInv t

/-! ### Who may change what, over every step -/

/-- R49: `BUSY` is set by the accepted issue of one of the five commands alone, and cleared by the completion, by
`SOFT_RESET` or by reset alone. -/
def Obligations.BusyWriters : Prop :=
  ∀ s t : State, step s = .next t →
    (s.busy = false → t.busy = true → ∃ c : LongCommand, writesCommand s (encode c.instr) ∧ s.legal c = true ∧
      t.pend = some c) ∧
    (s.busy = true → t.busy = false → nextAgent s = .engine ∨ nextAgent s = .reset ∨ writesCommand s 0x00000001)

/-- R50: `SSTATE` is written by the completions of `INIT_STREAM` and `DECRYPT_FINAL` and by the resets alone, with the
values the rule gives. -/
def Obligations.StreamStateWriters : Prop :=
  ∀ s t : State, step s = .next t → t.sstate ≠ s.sstate →
    (nextAgent s = .engine ∧ s.busy = true ∧ s.pend = some .initStream ∧ t.sstate = .stream) ∨
    (nextAgent s = .engine ∧ s.busy = true ∧ s.pend = some .decryptFinal ∧ (t.sstate = .done ∨ t.sstate = .error)) ∨
    ((nextAgent s = .reset ∨ writesCommand s 0x00000001) ∧ t.sstate = .idle)

/-- R51, R52, R53: `CKSTATE` is written by the completion of `CK_DECRYPT` and by the resets alone; `CMP_VALID` is set by
the completion of `COMPARE` alone, and cleared by those of `INIT_STREAM` and `CK_DECRYPT` and by the resets alone. -/
def Obligations.ChecksumStateWriters : Prop :=
  ∀ s t : State, step s = .next t →
    (t.ckstate ≠ s.ckstate →
      (nextAgent s = .engine ∧ s.pend = some .ckDecrypt ∧ (t.ckstate = .valid ∨ t.ckstate = .error)) ∨
      ((nextAgent s = .reset ∨ writesCommand s 0x00000001) ∧ t.ckstate = .empty)) ∧
    (s.cmpValid = false → t.cmpValid = true → nextAgent s = .engine ∧ s.pend = some .compare) ∧
    (s.cmpValid = true → t.cmpValid = false →
      (nextAgent s = .engine ∧ (s.pend = some .initStream ∨ s.pend = some .ckDecrypt)) ∨
      nextAgent s = .reset ∨ writesCommand s 0x00000001)

/-- R75, R301, R330: `CHAIN` is written by the completions of the three stream commands and by the resets alone, with the
value the rule gives, and the hash accumulator changes in those steps alone. -/
def Obligations.StreamInternalsWriters : Prop :=
  ∀ s t : State, step s = .next t →
    (t.chain ≠ s.chain →
      (nextAgent s = .engine ∧ s.busy = true ∧ s.pend = some .initStream ∧ t.chain = s.lIv) ∨
      (nextAgent s = .engine ∧ s.busy = true ∧ (s.pend = some .decryptBlock ∨ s.pend = some .decryptFinal) ∧
        t.chain = s.lDin) ∨
      ((nextAgent s = .reset ∨ writesCommand s 0x00000001) ∧ t.chain = zeros 16)) ∧
    (¬(t.hstate = s.hstate ∧ t.hbuf = s.hbuf ∧ t.hcount = s.hcount) →
      (nextAgent s = .engine ∧ s.busy = true ∧
        (s.pend = some .initStream ∨ s.pend = some .decryptBlock ∨ s.pend = some .decryptFinal)) ∨
      nextAgent s = .reset ∨ writesCommand s 0x00000001)

/-- R594, R206: a result register changes at a completion, or by a reset, and in no other step. -/
def Obligations.ResultsAtCompletion : Prop :=
  ∀ s t : State, step s = .next t → ¬ SameResults s t →
    (nextAgent s = .engine ∧ s.busy = true) ∨ nextAgent s = .reset ∨ writesCommand s 0x00000001

/-- R57, R59: a flag of `ERRFLAGS` stays 1 until `ERR_CLEAR` or a reset, and a bit of `INT_STATUS` until the host writes 1
to it or a reset. -/
def Obligations.StickyBits : Prop :=
  ∀ (s t : State) (n : Nat), step s = .next t →
    (s.errflags.getLsbD n = true → t.errflags.getLsbD n = false →
      writesCommand s 0x00000007 ∨ nextAgent s = .reset ∨ writesCommand s 0x00000001) ∧
    (n < 3 → s.intStatus.getLsbD n = true → t.intStatus.getLsbD n = false →
      (∃ v : Word, nextAgent s = .host ∧ s.host.nextStmt = some (.bus (.write 0x01C .four v)) ∧ v.getLsbD n = true) ∨
      nextAgent s = .reset ∨ writesCommand s 0x00000001)

/-- R214: while a stream is open or being opened, no step but a reset changes `KEY` or `IV`. -/
def Obligations.KeyHeldWhileLocked : Prop :=
  ∀ s t : State, step s = .next t → s.locked = true → ¬(t.key = s.key ∧ t.iv = s.iv) →
    nextAgent s = .reset ∨ writesCommand s 0x00000001

/-! ### The cipher and the hash functions -/

/-- R371, R372, R373, R381: checks of the cipher on fixed data: the spec's products, the S-box as the affine map of the
inverse in GF(2^8), the inverse S-box, and the known answer (a sanity check). -/
def Obligations.CipherChecks : Prop :=
  Aes.gmul 0x57 0x83 = 0xC1 ∧ Aes.gmul 0x57 0x13 = 0xFE ∧ Aes.gmul 0x53 0xCA = 0x01 ∧
  (∀ a : Byte, ∃ b : Byte, (a = 0 ∧ b = 0 ∨ Aes.gmul a b = 0x01) ∧ ∀ i < 8, (Aes.sbox a).getLsbD i =
    (b.getLsbD i ^^ b.getLsbD ((i + 4) % 8) ^^ b.getLsbD ((i + 5) % 8) ^^ b.getLsbD ((i + 6) % 8) ^^
      b.getLsbD ((i + 7) % 8) ^^ (0x63 : Byte).getLsbD i)) ∧
  (∀ a : Byte, Aes.invSbox (Aes.sbox a) = a) ∧
  Aes.aesDec256 (Vector.ofFn fun i : Fin 32 => BitVec.ofNat 8 i.val)
    #v[0x8e, 0xa2, 0xb7, 0xca, 0x51, 0x67, 0x45, 0xbf, 0xea, 0xfc, 0x49, 0x90, 0x4b, 0x49, 0x60, 0x89] =
  #v[0x00, 0x11, 0x22, 0x33, 0x44, 0x55, 0x66, 0x77, 0x88, 0x99, 0xaa, 0xbb, 0xcc, 0xdd, 0xee, 0xff]

/-- R374, R375: the key expansion: sixty words, the first eight the key, each later one by the recurrence, for every
key. -/
def Obligations.KeyExpansionRule : Prop :=
  ∀ k : Bytes 32, (Aes.keyExpansion k).length = 60 ∧
    (∀ i j, i < 8 → j < 4 → byteAt ((Aes.keyExpansion k).getD i (zeros 4)) j = byteAt k (4 * i + j)) ∧
    ∀ i, 8 ≤ i → i < 60 →
      let t := (Aes.keyExpansion k).getD (i - 1) (zeros 4)
      (Aes.keyExpansion k).getD i (zeros 4) = xorBytes ((Aes.keyExpansion k).getD (i - 8) (zeros 4))
        (if i % 8 = 0 then
          #v[Aes.sbox t[1] ^^^ [0x01, 0x02, 0x04, 0x08, 0x10, 0x20, 0x40].getD (i / 8 - 1) 0, Aes.sbox t[2],
            Aes.sbox t[3], Aes.sbox t[0]]
        else if i % 8 = 4 then #v[Aes.sbox t[0], Aes.sbox t[1], Aes.sbox t[2], Aes.sbox t[3]]
        else t)

/-- R377, R379, R380: where each byte of the state goes, and what each is made of, in a step of an inverse round. -/
def Obligations.InverseRoundSteps : Prop :=
  ∀ (s : Bytes 16) (w : List (Bytes 4)) (n r c : Nat), r < 4 → c < 4 →
    byteAt (Aes.invShiftRows s) (r + 4 * ((c + r) % 4)) = byteAt s (r + 4 * c) ∧
    byteAt (Aes.addRoundKey s w n) (r + 4 * c) = byteAt s (r + 4 * c) ^^^ byteAt (w.getD (4 * n + c) (zeros 4)) r ∧
    byteAt (Aes.invMixColumns s) (r + 4 * c) =
      Aes.gmul ([0x0e, 0x0b, 0x0d, 0x09].getD ((4 - r) % 4) 0) (byteAt s (4 * c)) ^^^
      Aes.gmul ([0x0e, 0x0b, 0x0d, 0x09].getD ((5 - r) % 4) 0) (byteAt s (4 * c + 1)) ^^^
      Aes.gmul ([0x0e, 0x0b, 0x0d, 0x09].getD ((6 - r) % 4) 0) (byteAt s (4 * c + 2)) ^^^
      Aes.gmul ([0x0e, 0x0b, 0x0d, 0x09].getD ((7 - r) % 4) 0) (byteAt s (4 * c + 3))

/-- R423, R434: the message schedules of SHA-1 and SHA-256: the block's big-endian words, then the recurrences, for every
block. -/
def Obligations.MessageSchedules : Prop :=
  ∀ b : List Byte, b.length = 64 →
    (∀ t < 16, ∀ w ∈ [(sha1Schedule b).getD t 0, (sha2Schedule Machine.sha256 b).getD t 0],
      w = b.getD (4 * t) 0 ++ b.getD (4 * t + 1) 0 ++ b.getD (4 * t + 2) 0 ++ b.getD (4 * t + 3) 0) ∧
    (∀ t, 16 ≤ t → t < 80 → let w := fun n => (sha1Schedule b).getD n 0
      w t = (w (t - 3) ^^^ w (t - 8) ^^^ w (t - 14) ^^^ w (t - 16)).rotateLeft 1) ∧
    ∀ t, 16 ≤ t → t < 64 → let w := fun n => (sha2Schedule Machine.sha256 b).getD n 0
      w t = ((w (t - 2)).rotateRight 17 ^^^ (w (t - 2)).rotateRight 19 ^^^ (w (t - 2)) >>> 10) + w (t - 7) +
        ((w (t - 15)).rotateRight 7 ^^^ (w (t - 15)).rotateRight 18 ^^^ (w (t - 15)) >>> 3) + w (t - 16)

/-- R421, R425, R430, R431, R435, R436: `Compress` of SHA-1 and SHA-256 as the spec's rounds, with their functions and
constants, for every chaining value and block, and the byte order of the digests; and the same of the host's SHA-512
(R440, R441, R443). A SHA-2 constant is the fraction, to the word's width, of the cube root of the prime of its number. -/
def Obligations.CompressionRounds : Prop :=
  IsSha1Compress sha1Compress ∧
  IsSha2Compress 4 64 (2, 13, 22) (6, 11, 25) (7, 18, 3) (17, 19, 10) (sha2Compress Machine.sha256) ∧
  IsSha2Compress 8 80 (28, 34, 39) (14, 18, 41) (1, 8, 7) (19, 61, 6) (sha2Compress sha512) ∧
  (∀ (h : Vector Word 5) (b : List Byte),
    HashState.compress b (.sha1 h) = .sha1 (sha1Compress h b) ∧ (HashState.sha1 h).digest.length = 20 ∧
    ∀ i, i < 20 → (HashState.sha1 h).digest.getD i 0 = (h.toList.getD (i / 4) 0).extractLsb' (8 * (3 - i % 4)) 8) ∧
  ∀ (h : Vector Word 8) (b : List Byte),
    HashState.compress b (.sha256 h) = .sha256 (sha2Compress Machine.sha256 h b) ∧
    (HashState.sha256 h).digest.length = 32 ∧
    ∀ i, i < 32 → (HashState.sha256 h).digest.getD i 0 = (h.toList.getD (i / 4) 0).extractLsb' (8 * (3 - i % 4)) 8

/-! ### The host -/

/-- R481, R482, R483, R485: every outcome of the Reader, in the order of its checks. The version error of a file of
exactly four bytes reports no minor byte: that is the model's choice of log entry 26. -/
def Obligations.ReaderOutcomes : Prop :=
  ∀ (magic : Bytes 3) (major : Byte) (f : List Byte),
    (f.length < 3 → readContainer magic major f = .error .io) ∧
    (3 ≤ f.length → f.take 3 ≠ magic.toList → readContainer magic major f = .error .format) ∧
    (f.length = 3 → f.take 3 = magic.toList → readContainer magic major f = .error .io) ∧
    (4 ≤ f.length → f.take 3 = magic.toList → f.getD 3 0 ≠ major →
      readContainer magic major f = .error (.unsupportedVersion (f.getD 3 0) f[4]?)) ∧
    (4 ≤ f.length → f.length ≤ 0xC3 → f.take 3 = magic.toList → f.getD 3 0 = major →
      readContainer magic major f = .error .io) ∧
    (0xC3 < f.length → f.take 3 = magic.toList → f.getD 3 0 = major →
      readContainer magic major f = .ok
        { iv := padTo 16 ((f.drop 0x43).take 16), salt := (f.drop 0x53).take 16, pwhash := (f.drop 0x63).take 64,
          data := (f.drop 0xA3).take (f.length - 0xC3), ck := padTo 32 (f.drop (f.length - 0x20)) })

/-- R487: without override, a wrong password ends the run with `AuthenticationError` before any statement of a program,
so before any engine command; nothing is printed, and what was at the output path is there as it was. -/
def Obligations.WrongPasswordStops : Prop :=
  ∀ (stripExt : Path → Path) (s : State) (r : RunRequest) (f : List Byte) (c : Container), r.file = some f →
    readContainer r.magic r.supportedMajor f = .ok c → r.override = false →
    sha512Digest (r.password.getD [] ++ c.salt) ≠ c.pwhash →
    let t := startRun stripExt r s
    t.host.outcome = .failed .authentication ∧ t.host.nextStmt = none ∧ t.host.outputFile = r.existing ∧
      t.host.printed = [] ∧ hostStep t = .next t

/-- R488, R491: a run that passes the password check has the same driver program with override on, and a writing run has
the same driver program when made dry. -/
def Obligations.SameDriverProgram : Prop :=
  ∀ (stripExt : Path → Path) (r : RunRequest) (p : List HostLine), planRun stripExt r = .ok p →
    planRun stripExt { r with override := true } = .ok p ∧ planRun stripExt { r with dryRun := true } = .ok p

/-- R489, R490, R295: the chunk loop and the final chunk send the region's blocks in order, the last one alone with
`DECRYPT_FINAL`, as if there were no chunks; a region that is no multiple of 16 sends the whole chunks' blocks and then
fails with the padding error. A chunk whose read comes short (R480, R493) ends the run with `IOError` once the blocks of
the chunks before it are sent; that its read comes before the length check of a final chunk is the model's choice of log
entry 12. -/
def Obligations.ChunksInvisible : Prop :=
  ∀ d : List Byte, 0 < d.length →
    (d.length % 16 = 0 → chunkLines none (d.length / 131072) d =
      blocksLines (d.length / 16 - 1) d ++ finalBlockLines (padTo 16 (d.drop (d.length - 16)))) ∧
    (d.length % 16 ≠ 0 → chunkLines none (d.length / 131072) d =
      blocksLines (8192 * ((d.length - 1) / 131072)) d ++ [.step (.fail .paddingLength)]) ∧
    ∀ k, k ≤ (d.length - 1) / 131072 → chunkLines (some k) (d.length / 131072) d =
      blocksLines (8192 * k) d ++ [.step (.fail .io)]

/-- R151, R150: the `BNZ` of a `WAIT` whose label the program defines goes back to a definition of the label while
`STATUS.BUSY` reads 1 and on to the next statement when it reads 0, and changes nothing of the engine. That the value it
reads is not put in the trace is the model's choice of log entry 10. -/
def Obligations.WaitPollsBusy : Prop :=
  ∀ (s : State) (l : Label), nextAgent s = .host → s.host.nextStmt = some (.bnz .status 0x1 l) →
    .label l ∈ s.host.program →
    (s.busy = true → ∃ n, s.host.program[n]? = some (.label l) ∧
      step s = .next { s with schedule := s.schedule.tail, host := { s.host with pc := n } }) ∧
    (s.busy = false →
      step s = .next { s with schedule := s.schedule.tail, host := { s.host with pc := s.host.pc + 1 } })

/-- R151, R210, R214: the bus writes that `LDKEY` and `LDIV` stand for leave exactly the given bytes in `KEY` and `IV`
while these are not locked, and record `LOCKED` and write nothing while they are; those of `LDDIN` and `LDCK` leave the
given bytes in `DIN` and `CK` in every state. Nothing else changes. -/
def Obligations.LoadsWholeArrays : Prop :=
  ∀ (s : State) (a : Bytes 32) (b : Bytes 16) (n : Nat),
    (s.locked = false →
      performAll (encodeProgram (expandLine n (.ldkey a))) s = .next { s with key := a } ∧
      performAll (encodeProgram (expandLine n (.ldiv b))) s = .next { s with iv := b }) ∧
    (s.locked = true →
      performAll (encodeProgram (expandLine n (.ldkey a))) s = .next (s.recordError .locked) ∧
      performAll (encodeProgram (expandLine n (.ldiv b))) s = .next (s.recordError .locked)) ∧
    performAll (encodeProgram (expandLine n (.lddin b))) s = .next { s with din := b } ∧
    performAll (encodeProgram (expandLine n (.ldck a))) s = .next { s with ck := a }

/-- R494, R495: the report, from a state with no byte kept, prints the first `EXP_LEN` bytes of `EXP` and the first
`HASH_LEN` bytes of `DIGEST` in hex, byte 0 first, and ends the run with success exactly when `STATUS.MATCH` is 1 and else
with the warning, the output file as it was; both exit with status 0, and every fatal error with another one. That the
strings are printed in both outcomes, expected hash first, is the model's choice of log entry 10, and that their digits are
in lower case with nothing between them is that of log entry 28. -/
def Obligations.ReportAndExit : Prop :=
  (∀ s : State, s.expLen ≤ 32 → s.host.buffer = [] → ∃ t x y, performStmts (expandProgram reportLines) s = .next t ∧
    t.host = { s.host with
      printed := s.host.printed ++ [x, y], outcome := if s.matchBit then .success else .integrityWarning } ∧
    IsHexOf x (s.exp.toList.take s.expLen) ∧ IsHexOf y (s.digest.toList.take s.hashAlg.hashLen)) ∧
  exitStatus .success = some 0 ∧ exitStatus .integrityWarning = some 0 ∧
  ∀ e : HostError, ∃ n, exitStatus (.failed e) = some n ∧ n ≠ 0

end
end

