-- ==== Sys2Proof/Laws/Bytes.lean ====
section
/-! SUPPORT. What each byte of a byte array is after an operation on it. -/

namespace Sys2Proof.Machine

@[simp] theorem byteAt_of_lt {n : Nat} (a : Bytes n) (i : Nat) (h : i < n) : byteAt a i = a[i] := by
  simp [byteAt, h]

theorem byteAt_of_ge {n : Nat} (a : Bytes n) (i : Nat) (h : n ≤ i) : byteAt a i = 0 := by
  simp [byteAt, Nat.not_lt.mpr h]

theorem byteAt_zeros (n i : Nat) : byteAt (zeros n) i = 0 := by
  unfold byteAt zeros
  split <;> simp

theorem byteAt_padTo (n : Nat) (l : List Byte) (i : Nat) (h : i < n) : byteAt (padTo n l) i = l.getD i 0 := by
  simp [byteAt, padTo, h]

/-- `l || zeros` reads 0x00 from the end of `l` on. -/
theorem byteAt_padTo_tail (n : Nat) (l : List Byte) (i : Nat) (h : l.length ≤ i) : byteAt (padTo n l) i = 0 := by
  by_cases hi : i < n
  · rw [byteAt_padTo n l i hi]
    simp [List.getElem?_eq_none h]
  · exact byteAt_of_ge _ _ (Nat.le_of_not_lt hi)

theorem byteAt_setWord {n : Nat} (a : Bytes n) (k : Nat) (v : Word) (i : Nat) (h : i < n) :
    byteAt (setWord a k v) i = if i / 4 = k then byteOfWord v (i % 4) else byteAt a i := by
  simp [byteAt, setWord, h]

theorem byteAt_xorBytes {n : Nat} (a b : Bytes n) (i : Nat) : byteAt (xorBytes a b) i = byteAt a i ^^^ byteAt b i := by
  unfold byteAt xorBytes
  split <;> simp

/-- Exclusive-or with an array undoes itself. -/
theorem xorBytes_cancel {n : Nat} (a b : Bytes n) : xorBytes a (xorBytes a b) = b := by
  ext1 i hi
  simp [xorBytes]

/-- Two arrays with the same bytes are equal. -/
theorem bytes_ext {n : Nat} (a b : Bytes n) (h : ∀ i, i < n → byteAt a i = byteAt b i) : a = b := by
  ext1 i hi
  have := h i hi
  simpa [hi] using this

/-- A word is made of its four bytes (R11). -/
theorem word_of_bytes (v : Word) :
    (byteOfWord v 0).setWidth 32 ||| ((byteOfWord v 1).setWidth 32 <<< 8) ||| ((byteOfWord v 2).setWidth 32 <<< 16) |||
      ((byteOfWord v 3).setWidth 32 <<< 24) = v := by
  ext i hi
  simp only [byteOfWord, BitVec.getElem_or, BitVec.getElem_shiftLeft, BitVec.getElem_setWidth,
    BitVec.getLsbD_extractLsb']
  have h4 : i / 8 = 0 ∨ i / 8 = 1 ∨ i / 8 = 2 ∨ i / 8 = 3 := by omega
  have e : v[i] = v.getLsbD i := (BitVec.getLsbD_eq_getElem hi).symm
  rw [e]
  rcases h4 with h | h | h | h
  · have : i < 8 := by omega
    simp [this, show i < 16 by omega, show i < 24 by omega]
  · have h1 : ¬ i < 8 := by omega
    have h2 : i - 8 < 8 := by omega
    simp [h1, h2, show i < 16 by omega, show i < 24 by omega, show 8 + (i - 8) = i by omega]
  · have h1 : ¬ i < 8 := by omega
    have h2 : ¬ i < 16 := by omega
    simp [h1, h2, show i < 24 by omega, show ¬ i - 8 < 8 by omega, show i - 16 < 8 by omega,
      show 16 + (i - 16) = i by omega]
  · have h1 : ¬ i < 8 := by omega
    have h2 : ¬ i < 16 := by omega
    simp [h1, h2, show ¬ i < 24 by omega, show ¬ i - 8 < 8 by omega, show ¬ i - 16 < 8 by omega,
      show i - 24 < 8 by omega, show 24 + (i - 24) = i by omega]

theorem wordAt_setWord_same {n : Nat} (a : Bytes n) (k : Nat) (v : Word) (h : 4 * k + 3 < n) :
    wordAt (setWord a k v) k = v := by
  rw [wordAt, byteAt_setWord _ _ _ _ (by omega), byteAt_setWord _ _ _ _ (by omega),
    byteAt_setWord _ _ _ _ (by omega), byteAt_setWord _ _ _ _ h]
  simp only [show 4 * k / 4 = k by omega, show (4 * k + 1) / 4 = k by omega, show (4 * k + 2) / 4 = k by omega,
    show (4 * k + 3) / 4 = k by omega, show 4 * k % 4 = 0 by omega, show (4 * k + 1) % 4 = 1 by omega,
    show (4 * k + 2) % 4 = 2 by omega, show (4 * k + 3) % 4 = 3 by omega, if_true]
  exact word_of_bytes v

theorem byteAt_setWord_other {n : Nat} (a : Bytes n) (k : Nat) (v : Word) (i : Nat) (h : i / 4 ≠ k) :
    byteAt (setWord a k v) i = byteAt a i := by
  by_cases hi : i < n
  · rw [byteAt_setWord _ _ _ _ hi, if_neg h]
  · rw [byteAt_of_ge _ _ (Nat.le_of_not_lt hi), byteAt_of_ge _ _ (Nat.le_of_not_lt hi)]

theorem wordAt_setWord_other {n : Nat} (a : Bytes n) (k j : Nat) (v : Word) (h : j ≠ k) :
    wordAt (setWord a k v) j = wordAt a j := by
  simp only [wordAt, byteAt_setWord_other a k v _ (show 4 * j / 4 ≠ k by omega),
    byteAt_setWord_other a k v _ (show (4 * j + 1) / 4 ≠ k by omega),
    byteAt_setWord_other a k v _ (show (4 * j + 2) / 4 ≠ k by omega),
    byteAt_setWord_other a k v _ (show (4 * j + 3) / 4 ≠ k by omega)]

end Sys2Proof.Machine
end

