-- ==== Sys2Proof/Laws/Effects.lean ====
section
/-! SUPPORT. One lemma per field of the state and Completion block, so that no proof unfolds a record update. -/

namespace Sys2Proof.Machine

/-! ### `effectInitStream` -/

@[simp] theorem effectInitStream_hashAlg (s : State) : (effectInitStream s).hashAlg = s.hashAlg := by
  simp only [effectInitStream, State.hashReset, State.dropCompare]
@[simp] theorem effectInitStream_busy (s : State) : (effectInitStream s).busy = s.busy := by
  simp only [effectInitStream, State.hashReset, State.dropCompare]
@[simp] theorem effectInitStream_sstate (s : State) : (effectInitStream s).sstate = .stream := by
  simp only [effectInitStream, State.hashReset, State.dropCompare]
@[simp] theorem effectInitStream_ckstate (s : State) : (effectInitStream s).ckstate = s.ckstate := by
  simp only [effectInitStream, State.hashReset, State.dropCompare]
@[simp] theorem effectInitStream_cmpValid (s : State) : (effectInitStream s).cmpValid = false := by
  simp only [effectInitStream, State.hashReset, State.dropCompare]
@[simp] theorem effectInitStream_matchBit (s : State) : (effectInitStream s).matchBit = false := by
  simp only [effectInitStream, State.hashReset, State.dropCompare]
@[simp] theorem effectInitStream_pend (s : State) : (effectInitStream s).pend = s.pend := by
  simp only [effectInitStream, State.hashReset, State.dropCompare]
@[simp] theorem effectInitStream_errcode (s : State) : (effectInitStream s).errcode = s.errcode := by
  simp only [effectInitStream, State.hashReset, State.dropCompare]
@[simp] theorem effectInitStream_errflags (s : State) : (effectInitStream s).errflags = s.errflags := by
  simp only [effectInitStream, State.hashReset, State.dropCompare]
@[simp] theorem effectInitStream_intEn (s : State) : (effectInitStream s).intEn = s.intEn := by
  simp only [effectInitStream, State.hashReset, State.dropCompare]
@[simp] theorem effectInitStream_intStatus (s : State) : (effectInitStream s).intStatus = s.intStatus := by
  simp only [effectInitStream, State.hashReset, State.dropCompare]
@[simp] theorem effectInitStream_key (s : State) : (effectInitStream s).key = s.key := by
  simp only [effectInitStream, State.hashReset, State.dropCompare]
@[simp] theorem effectInitStream_iv (s : State) : (effectInitStream s).iv = s.iv := by
  simp only [effectInitStream, State.hashReset, State.dropCompare]
@[simp] theorem effectInitStream_din (s : State) : (effectInitStream s).din = s.din := by
  simp only [effectInitStream, State.hashReset, State.dropCompare]
@[simp] theorem effectInitStream_dout (s : State) : (effectInitStream s).dout = zeros 16 := by
  simp only [effectInitStream, State.hashReset, State.dropCompare]
@[simp] theorem effectInitStream_doutLen (s : State) : (effectInitStream s).doutLen = 0 := by
  simp only [effectInitStream, State.hashReset, State.dropCompare]
@[simp] theorem effectInitStream_hcount (s : State) : (effectInitStream s).hcount = 0 := by
  simp only [effectInitStream, State.hashReset, State.dropCompare]
@[simp] theorem effectInitStream_ck (s : State) : (effectInitStream s).ck = s.ck := by
  simp only [effectInitStream, State.hashReset, State.dropCompare]
@[simp] theorem effectInitStream_exp (s : State) : (effectInitStream s).exp = s.exp := by
  simp only [effectInitStream, State.hashReset, State.dropCompare]
@[simp] theorem effectInitStream_expLen (s : State) : (effectInitStream s).expLen = s.expLen := by
  simp only [effectInitStream, State.hashReset, State.dropCompare]
@[simp] theorem effectInitStream_digest (s : State) : (effectInitStream s).digest = zeros 32 := by
  simp only [effectInitStream, State.hashReset, State.dropCompare]
@[simp] theorem effectInitStream_chain (s : State) : (effectInitStream s).chain = s.lIv := by
  simp only [effectInitStream, State.hashReset, State.dropCompare]
@[simp] theorem effectInitStream_lKey (s : State) : (effectInitStream s).lKey = s.lKey := by
  simp only [effectInitStream, State.hashReset, State.dropCompare]
@[simp] theorem effectInitStream_lIv (s : State) : (effectInitStream s).lIv = s.lIv := by
  simp only [effectInitStream, State.hashReset, State.dropCompare]
@[simp] theorem effectInitStream_lDin (s : State) : (effectInitStream s).lDin = s.lDin := by
  simp only [effectInitStream, State.hashReset, State.dropCompare]
@[simp] theorem effectInitStream_lCk (s : State) : (effectInitStream s).lCk = s.lCk := by
  simp only [effectInitStream, State.hashReset, State.dropCompare]
@[simp] theorem effectInitStream_hstate (s : State) : (effectInitStream s).hstate = hashInit s.hashAlg := by
  simp only [effectInitStream, State.hashReset, State.dropCompare]
@[simp] theorem effectInitStream_hbuf (s : State) : (effectInitStream s).hbuf = [] := by
  simp only [effectInitStream, State.hashReset, State.dropCompare]
@[simp] theorem effectInitStream_host (s : State) : (effectInitStream s).host = s.host := by
  simp only [effectInitStream, State.hashReset, State.dropCompare]
@[simp] theorem effectInitStream_schedule (s : State) : (effectInitStream s).schedule = s.schedule := by
  simp only [effectInitStream, State.hashReset, State.dropCompare]

/-! ### `effectDecryptBlock` -/

@[simp] theorem effectDecryptBlock_hashAlg (s : State) : (effectDecryptBlock s).hashAlg = s.hashAlg := by
  simp only [effectDecryptBlock, State.absorb]
@[simp] theorem effectDecryptBlock_busy (s : State) : (effectDecryptBlock s).busy = s.busy := by
  simp only [effectDecryptBlock, State.absorb]
@[simp] theorem effectDecryptBlock_sstate (s : State) : (effectDecryptBlock s).sstate = s.sstate := by
  simp only [effectDecryptBlock, State.absorb]
@[simp] theorem effectDecryptBlock_ckstate (s : State) : (effectDecryptBlock s).ckstate = s.ckstate := by
  simp only [effectDecryptBlock, State.absorb]
@[simp] theorem effectDecryptBlock_cmpValid (s : State) : (effectDecryptBlock s).cmpValid = s.cmpValid := by
  simp only [effectDecryptBlock, State.absorb]
@[simp] theorem effectDecryptBlock_matchBit (s : State) : (effectDecryptBlock s).matchBit = s.matchBit := by
  simp only [effectDecryptBlock, State.absorb]
@[simp] theorem effectDecryptBlock_pend (s : State) : (effectDecryptBlock s).pend = s.pend := by
  simp only [effectDecryptBlock, State.absorb]
@[simp] theorem effectDecryptBlock_errcode (s : State) : (effectDecryptBlock s).errcode = s.errcode := by
  simp only [effectDecryptBlock, State.absorb]
@[simp] theorem effectDecryptBlock_errflags (s : State) : (effectDecryptBlock s).errflags = s.errflags := by
  simp only [effectDecryptBlock, State.absorb]
@[simp] theorem effectDecryptBlock_intEn (s : State) : (effectDecryptBlock s).intEn = s.intEn := by
  simp only [effectDecryptBlock, State.absorb]
@[simp] theorem effectDecryptBlock_intStatus (s : State) : (effectDecryptBlock s).intStatus = s.intStatus := by
  simp only [effectDecryptBlock, State.absorb]
@[simp] theorem effectDecryptBlock_key (s : State) : (effectDecryptBlock s).key = s.key := by
  simp only [effectDecryptBlock, State.absorb]
@[simp] theorem effectDecryptBlock_iv (s : State) : (effectDecryptBlock s).iv = s.iv := by
  simp only [effectDecryptBlock, State.absorb]
@[simp] theorem effectDecryptBlock_din (s : State) : (effectDecryptBlock s).din = s.din := by
  simp only [effectDecryptBlock, State.absorb]
@[simp] theorem effectDecryptBlock_dout (s : State) : (effectDecryptBlock s).dout = s.streamPlain := by
  simp only [effectDecryptBlock, State.absorb]
@[simp] theorem effectDecryptBlock_doutLen (s : State) : (effectDecryptBlock s).doutLen = 16 := by
  simp only [effectDecryptBlock, State.absorb]
@[simp] theorem effectDecryptBlock_hcount (s : State) : (effectDecryptBlock s).hcount = s.hcount + BitVec.ofNat 64 s.streamPlain.toList.length := by
  simp only [effectDecryptBlock, State.absorb]
@[simp] theorem effectDecryptBlock_ck (s : State) : (effectDecryptBlock s).ck = s.ck := by
  simp only [effectDecryptBlock, State.absorb]
@[simp] theorem effectDecryptBlock_exp (s : State) : (effectDecryptBlock s).exp = s.exp := by
  simp only [effectDecryptBlock, State.absorb]
@[simp] theorem effectDecryptBlock_expLen (s : State) : (effectDecryptBlock s).expLen = s.expLen := by
  simp only [effectDecryptBlock, State.absorb]
@[simp] theorem effectDecryptBlock_digest (s : State) : (effectDecryptBlock s).digest = s.digest := by
  simp only [effectDecryptBlock, State.absorb]
@[simp] theorem effectDecryptBlock_chain (s : State) : (effectDecryptBlock s).chain = s.lDin := by
  simp only [effectDecryptBlock, State.absorb]
@[simp] theorem effectDecryptBlock_lKey (s : State) : (effectDecryptBlock s).lKey = s.lKey := by
  simp only [effectDecryptBlock, State.absorb]
@[simp] theorem effectDecryptBlock_lIv (s : State) : (effectDecryptBlock s).lIv = s.lIv := by
  simp only [effectDecryptBlock, State.absorb]
@[simp] theorem effectDecryptBlock_lDin (s : State) : (effectDecryptBlock s).lDin = s.lDin := by
  simp only [effectDecryptBlock, State.absorb]
@[simp] theorem effectDecryptBlock_lCk (s : State) : (effectDecryptBlock s).lCk = s.lCk := by
  simp only [effectDecryptBlock, State.absorb]
@[simp] theorem effectDecryptBlock_hstate (s : State) : (effectDecryptBlock s).hstate = foldBlocks HashState.compress 64 ((s.hbuf ++ s.streamPlain.toList).length / 64) (s.hbuf ++ s.streamPlain.toList) s.hstate := by
  simp only [effectDecryptBlock, State.absorb]
@[simp] theorem effectDecryptBlock_hbuf (s : State) : (effectDecryptBlock s).hbuf = (s.hbuf ++ s.streamPlain.toList).drop (64 * ((s.hbuf ++ s.streamPlain.toList).length / 64)) := by
  simp only [effectDecryptBlock, State.absorb]
@[simp] theorem effectDecryptBlock_host (s : State) : (effectDecryptBlock s).host = s.host := by
  simp only [effectDecryptBlock, State.absorb]
@[simp] theorem effectDecryptBlock_schedule (s : State) : (effectDecryptBlock s).schedule = s.schedule := by
  simp only [effectDecryptBlock, State.absorb]

/-! ### `finalGood` -/

@[simp] theorem finalGood_hashAlg (m : List Byte) (s : State) : (finalGood m s).hashAlg = s.hashAlg := by
  simp only [finalGood, State.finalize, State.hashTail, State.absorb]
@[simp] theorem finalGood_busy (m : List Byte) (s : State) : (finalGood m s).busy = s.busy := by
  simp only [finalGood, State.finalize, State.hashTail, State.absorb]
@[simp] theorem finalGood_sstate (m : List Byte) (s : State) : (finalGood m s).sstate = .done := by
  simp only [finalGood, State.finalize, State.hashTail, State.absorb]
@[simp] theorem finalGood_ckstate (m : List Byte) (s : State) : (finalGood m s).ckstate = s.ckstate := by
  simp only [finalGood, State.finalize, State.hashTail, State.absorb]
@[simp] theorem finalGood_cmpValid (m : List Byte) (s : State) : (finalGood m s).cmpValid = s.cmpValid := by
  simp only [finalGood, State.finalize, State.hashTail, State.absorb]
@[simp] theorem finalGood_matchBit (m : List Byte) (s : State) : (finalGood m s).matchBit = s.matchBit := by
  simp only [finalGood, State.finalize, State.hashTail, State.absorb]
@[simp] theorem finalGood_pend (m : List Byte) (s : State) : (finalGood m s).pend = s.pend := by
  simp only [finalGood, State.finalize, State.hashTail, State.absorb]
@[simp] theorem finalGood_errcode (m : List Byte) (s : State) : (finalGood m s).errcode = s.errcode := by
  simp only [finalGood, State.finalize, State.hashTail, State.absorb]
@[simp] theorem finalGood_errflags (m : List Byte) (s : State) : (finalGood m s).errflags = s.errflags := by
  simp only [finalGood, State.finalize, State.hashTail, State.absorb]
@[simp] theorem finalGood_intEn (m : List Byte) (s : State) : (finalGood m s).intEn = s.intEn := by
  simp only [finalGood, State.finalize, State.hashTail, State.absorb]
@[simp] theorem finalGood_intStatus (m : List Byte) (s : State) : (finalGood m s).intStatus = s.intStatus := by
  simp only [finalGood, State.finalize, State.hashTail, State.absorb]
@[simp] theorem finalGood_key (m : List Byte) (s : State) : (finalGood m s).key = s.key := by
  simp only [finalGood, State.finalize, State.hashTail, State.absorb]
@[simp] theorem finalGood_iv (m : List Byte) (s : State) : (finalGood m s).iv = s.iv := by
  simp only [finalGood, State.finalize, State.hashTail, State.absorb]
@[simp] theorem finalGood_din (m : List Byte) (s : State) : (finalGood m s).din = s.din := by
  simp only [finalGood, State.finalize, State.hashTail, State.absorb]
@[simp] theorem finalGood_dout (m : List Byte) (s : State) : (finalGood m s).dout = padTo 16 m := by
  simp only [finalGood, State.finalize, State.hashTail, State.absorb]
@[simp] theorem finalGood_doutLen (m : List Byte) (s : State) : (finalGood m s).doutLen = m.length := by
  simp only [finalGood, State.finalize, State.hashTail, State.absorb]
@[simp] theorem finalGood_hcount (m : List Byte) (s : State) : (finalGood m s).hcount = s.hcount + BitVec.ofNat 64 m.length := by
  simp only [finalGood, State.finalize, State.hashTail, State.absorb]
@[simp] theorem finalGood_ck (m : List Byte) (s : State) : (finalGood m s).ck = s.ck := by
  simp only [finalGood, State.finalize, State.hashTail, State.absorb]
@[simp] theorem finalGood_exp (m : List Byte) (s : State) : (finalGood m s).exp = s.exp := by
  simp only [finalGood, State.finalize, State.hashTail, State.absorb]
@[simp] theorem finalGood_expLen (m : List Byte) (s : State) : (finalGood m s).expLen = s.expLen := by
  simp only [finalGood, State.finalize, State.hashTail, State.absorb]
@[simp] theorem finalGood_digest (m : List Byte) (s : State) : (finalGood m s).digest = padTo 32 (s.absorb m).finalize := by
  simp only [finalGood, State.finalize, State.hashTail, State.absorb]
@[simp] theorem finalGood_chain (m : List Byte) (s : State) : (finalGood m s).chain = s.lDin := by
  simp only [finalGood, State.finalize, State.hashTail, State.absorb]
@[simp] theorem finalGood_lKey (m : List Byte) (s : State) : (finalGood m s).lKey = s.lKey := by
  simp only [finalGood, State.finalize, State.hashTail, State.absorb]
@[simp] theorem finalGood_lIv (m : List Byte) (s : State) : (finalGood m s).lIv = s.lIv := by
  simp only [finalGood, State.finalize, State.hashTail, State.absorb]
@[simp] theorem finalGood_lDin (m : List Byte) (s : State) : (finalGood m s).lDin = s.lDin := by
  simp only [finalGood, State.finalize, State.hashTail, State.absorb]
@[simp] theorem finalGood_lCk (m : List Byte) (s : State) : (finalGood m s).lCk = s.lCk := by
  simp only [finalGood, State.finalize, State.hashTail, State.absorb]
@[simp] theorem finalGood_hstate (m : List Byte) (s : State) : (finalGood m s).hstate = foldBlocks HashState.compress 64 ((s.hbuf ++ m).length / 64) (s.hbuf ++ m) s.hstate := by
  simp only [finalGood, State.finalize, State.hashTail, State.absorb]
@[simp] theorem finalGood_hbuf (m : List Byte) (s : State) : (finalGood m s).hbuf = (s.hbuf ++ m).drop (64 * ((s.hbuf ++ m).length / 64)) := by
  simp only [finalGood, State.finalize, State.hashTail, State.absorb]
@[simp] theorem finalGood_host (m : List Byte) (s : State) : (finalGood m s).host = s.host := by
  simp only [finalGood, State.finalize, State.hashTail, State.absorb]
@[simp] theorem finalGood_schedule (m : List Byte) (s : State) : (finalGood m s).schedule = s.schedule := by
  simp only [finalGood, State.finalize, State.hashTail, State.absorb]

/-! ### `finalBad` -/

@[simp] theorem finalBad_hashAlg (s : State) : (finalBad s).hashAlg = s.hashAlg := by
  simp only [finalBad, State.recordError]
@[simp] theorem finalBad_busy (s : State) : (finalBad s).busy = s.busy := by
  simp only [finalBad, State.recordError]
@[simp] theorem finalBad_sstate (s : State) : (finalBad s).sstate = .error := by
  simp only [finalBad, State.recordError]
@[simp] theorem finalBad_ckstate (s : State) : (finalBad s).ckstate = s.ckstate := by
  simp only [finalBad, State.recordError]
@[simp] theorem finalBad_cmpValid (s : State) : (finalBad s).cmpValid = s.cmpValid := by
  simp only [finalBad, State.recordError]
@[simp] theorem finalBad_matchBit (s : State) : (finalBad s).matchBit = s.matchBit := by
  simp only [finalBad, State.recordError]
@[simp] theorem finalBad_pend (s : State) : (finalBad s).pend = s.pend := by
  simp only [finalBad, State.recordError]
@[simp] theorem finalBad_errcode (s : State) : (finalBad s).errcode = some .padStream := by
  simp only [finalBad, State.recordError]
@[simp] theorem finalBad_errflags (s : State) : (finalBad s).errflags = s.errflags ||| errorBit .padStream := by
  simp only [finalBad, State.recordError]
@[simp] theorem finalBad_intEn (s : State) : (finalBad s).intEn = s.intEn := by
  simp only [finalBad, State.recordError]
@[simp] theorem finalBad_intStatus (s : State) : (finalBad s).intStatus = s.intStatus ||| errBit := by
  simp only [finalBad, State.recordError]
@[simp] theorem finalBad_key (s : State) : (finalBad s).key = s.key := by
  simp only [finalBad, State.recordError]
@[simp] theorem finalBad_iv (s : State) : (finalBad s).iv = s.iv := by
  simp only [finalBad, State.recordError]
@[simp] theorem finalBad_din (s : State) : (finalBad s).din = s.din := by
  simp only [finalBad, State.recordError]
@[simp] theorem finalBad_dout (s : State) : (finalBad s).dout = zeros 16 := by
  simp only [finalBad, State.recordError]
@[simp] theorem finalBad_doutLen (s : State) : (finalBad s).doutLen = 0 := by
  simp only [finalBad, State.recordError]
@[simp] theorem finalBad_hcount (s : State) : (finalBad s).hcount = s.hcount := by
  simp only [finalBad, State.recordError]
@[simp] theorem finalBad_ck (s : State) : (finalBad s).ck = s.ck := by
  simp only [finalBad, State.recordError]
@[simp] theorem finalBad_exp (s : State) : (finalBad s).exp = s.exp := by
  simp only [finalBad, State.recordError]
@[simp] theorem finalBad_expLen (s : State) : (finalBad s).expLen = s.expLen := by
  simp only [finalBad, State.recordError]
@[simp] theorem finalBad_digest (s : State) : (finalBad s).digest = s.digest := by
  simp only [finalBad, State.recordError]
@[simp] theorem finalBad_chain (s : State) : (finalBad s).chain = s.lDin := by
  simp only [finalBad, State.recordError]
@[simp] theorem finalBad_lKey (s : State) : (finalBad s).lKey = s.lKey := by
  simp only [finalBad, State.recordError]
@[simp] theorem finalBad_lIv (s : State) : (finalBad s).lIv = s.lIv := by
  simp only [finalBad, State.recordError]
@[simp] theorem finalBad_lDin (s : State) : (finalBad s).lDin = s.lDin := by
  simp only [finalBad, State.recordError]
@[simp] theorem finalBad_lCk (s : State) : (finalBad s).lCk = s.lCk := by
  simp only [finalBad, State.recordError]
@[simp] theorem finalBad_hstate (s : State) : (finalBad s).hstate = s.hstate := by
  simp only [finalBad, State.recordError]
@[simp] theorem finalBad_hbuf (s : State) : (finalBad s).hbuf = s.hbuf := by
  simp only [finalBad, State.recordError]
@[simp] theorem finalBad_host (s : State) : (finalBad s).host = s.host := by
  simp only [finalBad, State.recordError]
@[simp] theorem finalBad_schedule (s : State) : (finalBad s).schedule = s.schedule := by
  simp only [finalBad, State.recordError]

/-! ### `checksumGood` -/

@[simp] theorem checksumGood_hashAlg (n : Nat) (s : State) : (checksumGood n s).hashAlg = s.hashAlg := by
  simp only [checksumGood, State.dropCompare]
@[simp] theorem checksumGood_busy (n : Nat) (s : State) : (checksumGood n s).busy = s.busy := by
  simp only [checksumGood, State.dropCompare]
@[simp] theorem checksumGood_sstate (n : Nat) (s : State) : (checksumGood n s).sstate = s.sstate := by
  simp only [checksumGood, State.dropCompare]
@[simp] theorem checksumGood_ckstate (n : Nat) (s : State) : (checksumGood n s).ckstate = .valid := by
  simp only [checksumGood, State.dropCompare]
@[simp] theorem checksumGood_cmpValid (n : Nat) (s : State) : (checksumGood n s).cmpValid = false := by
  simp only [checksumGood, State.dropCompare]
@[simp] theorem checksumGood_matchBit (n : Nat) (s : State) : (checksumGood n s).matchBit = false := by
  simp only [checksumGood, State.dropCompare]
@[simp] theorem checksumGood_pend (n : Nat) (s : State) : (checksumGood n s).pend = s.pend := by
  simp only [checksumGood, State.dropCompare]
@[simp] theorem checksumGood_errcode (n : Nat) (s : State) : (checksumGood n s).errcode = s.errcode := by
  simp only [checksumGood, State.dropCompare]
@[simp] theorem checksumGood_errflags (n : Nat) (s : State) : (checksumGood n s).errflags = s.errflags := by
  simp only [checksumGood, State.dropCompare]
@[simp] theorem checksumGood_intEn (n : Nat) (s : State) : (checksumGood n s).intEn = s.intEn := by
  simp only [checksumGood, State.dropCompare]
@[simp] theorem checksumGood_intStatus (n : Nat) (s : State) : (checksumGood n s).intStatus = s.intStatus := by
  simp only [checksumGood, State.dropCompare]
@[simp] theorem checksumGood_key (n : Nat) (s : State) : (checksumGood n s).key = s.key := by
  simp only [checksumGood, State.dropCompare]
@[simp] theorem checksumGood_iv (n : Nat) (s : State) : (checksumGood n s).iv = s.iv := by
  simp only [checksumGood, State.dropCompare]
@[simp] theorem checksumGood_din (n : Nat) (s : State) : (checksumGood n s).din = s.din := by
  simp only [checksumGood, State.dropCompare]
@[simp] theorem checksumGood_dout (n : Nat) (s : State) : (checksumGood n s).dout = s.dout := by
  simp only [checksumGood, State.dropCompare]
@[simp] theorem checksumGood_doutLen (n : Nat) (s : State) : (checksumGood n s).doutLen = s.doutLen := by
  simp only [checksumGood, State.dropCompare]
@[simp] theorem checksumGood_hcount (n : Nat) (s : State) : (checksumGood n s).hcount = s.hcount := by
  simp only [checksumGood, State.dropCompare]
@[simp] theorem checksumGood_ck (n : Nat) (s : State) : (checksumGood n s).ck = s.ck := by
  simp only [checksumGood, State.dropCompare]
@[simp] theorem checksumGood_exp (n : Nat) (s : State) : (checksumGood n s).exp = padTo 32 (s.checksumPlain.take (32 - n)) := by
  simp only [checksumGood, State.dropCompare]
@[simp] theorem checksumGood_expLen (n : Nat) (s : State) : (checksumGood n s).expLen = 32 - n := by
  simp only [checksumGood, State.dropCompare]
@[simp] theorem checksumGood_digest (n : Nat) (s : State) : (checksumGood n s).digest = s.digest := by
  simp only [checksumGood, State.dropCompare]
@[simp] theorem checksumGood_chain (n : Nat) (s : State) : (checksumGood n s).chain = s.chain := by
  simp only [checksumGood, State.dropCompare]
@[simp] theorem checksumGood_lKey (n : Nat) (s : State) : (checksumGood n s).lKey = s.lKey := by
  simp only [checksumGood, State.dropCompare]
@[simp] theorem checksumGood_lIv (n : Nat) (s : State) : (checksumGood n s).lIv = s.lIv := by
  simp only [checksumGood, State.dropCompare]
@[simp] theorem checksumGood_lDin (n : Nat) (s : State) : (checksumGood n s).lDin = s.lDin := by
  simp only [checksumGood, State.dropCompare]
@[simp] theorem checksumGood_lCk (n : Nat) (s : State) : (checksumGood n s).lCk = s.lCk := by
  simp only [checksumGood, State.dropCompare]
@[simp] theorem checksumGood_hstate (n : Nat) (s : State) : (checksumGood n s).hstate = s.hstate := by
  simp only [checksumGood, State.dropCompare]
@[simp] theorem checksumGood_hbuf (n : Nat) (s : State) : (checksumGood n s).hbuf = s.hbuf := by
  simp only [checksumGood, State.dropCompare]
@[simp] theorem checksumGood_host (n : Nat) (s : State) : (checksumGood n s).host = s.host := by
  simp only [checksumGood, State.dropCompare]
@[simp] theorem checksumGood_schedule (n : Nat) (s : State) : (checksumGood n s).schedule = s.schedule := by
  simp only [checksumGood, State.dropCompare]

/-! ### `checksumBad` -/

@[simp] theorem checksumBad_hashAlg (s : State) : (checksumBad s).hashAlg = s.hashAlg := by
  simp only [checksumBad, State.recordError, State.dropCompare]
@[simp] theorem checksumBad_busy (s : State) : (checksumBad s).busy = s.busy := by
  simp only [checksumBad, State.recordError, State.dropCompare]
@[simp] theorem checksumBad_sstate (s : State) : (checksumBad s).sstate = s.sstate := by
  simp only [checksumBad, State.recordError, State.dropCompare]
@[simp] theorem checksumBad_ckstate (s : State) : (checksumBad s).ckstate = .error := by
  simp only [checksumBad, State.recordError, State.dropCompare]
@[simp] theorem checksumBad_cmpValid (s : State) : (checksumBad s).cmpValid = false := by
  simp only [checksumBad, State.recordError, State.dropCompare]
@[simp] theorem checksumBad_matchBit (s : State) : (checksumBad s).matchBit = false := by
  simp only [checksumBad, State.recordError, State.dropCompare]
@[simp] theorem checksumBad_pend (s : State) : (checksumBad s).pend = s.pend := by
  simp only [checksumBad, State.recordError, State.dropCompare]
@[simp] theorem checksumBad_errcode (s : State) : (checksumBad s).errcode = some .padChecksum := by
  simp only [checksumBad, State.recordError, State.dropCompare]
@[simp] theorem checksumBad_errflags (s : State) : (checksumBad s).errflags = s.errflags ||| errorBit .padChecksum := by
  simp only [checksumBad, State.recordError, State.dropCompare]
@[simp] theorem checksumBad_intEn (s : State) : (checksumBad s).intEn = s.intEn := by
  simp only [checksumBad, State.recordError, State.dropCompare]
@[simp] theorem checksumBad_intStatus (s : State) : (checksumBad s).intStatus = s.intStatus ||| errBit := by
  simp only [checksumBad, State.recordError, State.dropCompare]
@[simp] theorem checksumBad_key (s : State) : (checksumBad s).key = s.key := by
  simp only [checksumBad, State.recordError, State.dropCompare]
@[simp] theorem checksumBad_iv (s : State) : (checksumBad s).iv = s.iv := by
  simp only [checksumBad, State.recordError, State.dropCompare]
@[simp] theorem checksumBad_din (s : State) : (checksumBad s).din = s.din := by
  simp only [checksumBad, State.recordError, State.dropCompare]
@[simp] theorem checksumBad_dout (s : State) : (checksumBad s).dout = s.dout := by
  simp only [checksumBad, State.recordError, State.dropCompare]
@[simp] theorem checksumBad_doutLen (s : State) : (checksumBad s).doutLen = s.doutLen := by
  simp only [checksumBad, State.recordError, State.dropCompare]
@[simp] theorem checksumBad_hcount (s : State) : (checksumBad s).hcount = s.hcount := by
  simp only [checksumBad, State.recordError, State.dropCompare]
@[simp] theorem checksumBad_ck (s : State) : (checksumBad s).ck = s.ck := by
  simp only [checksumBad, State.recordError, State.dropCompare]
@[simp] theorem checksumBad_exp (s : State) : (checksumBad s).exp = zeros 32 := by
  simp only [checksumBad, State.recordError, State.dropCompare]
@[simp] theorem checksumBad_expLen (s : State) : (checksumBad s).expLen = 0 := by
  simp only [checksumBad, State.recordError, State.dropCompare]
@[simp] theorem checksumBad_digest (s : State) : (checksumBad s).digest = s.digest := by
  simp only [checksumBad, State.recordError, State.dropCompare]
@[simp] theorem checksumBad_chain (s : State) : (checksumBad s).chain = s.chain := by
  simp only [checksumBad, State.recordError, State.dropCompare]
@[simp] theorem checksumBad_lKey (s : State) : (checksumBad s).lKey = s.lKey := by
  simp only [checksumBad, State.recordError, State.dropCompare]
@[simp] theorem checksumBad_lIv (s : State) : (checksumBad s).lIv = s.lIv := by
  simp only [checksumBad, State.recordError, State.dropCompare]
@[simp] theorem checksumBad_lDin (s : State) : (checksumBad s).lDin = s.lDin := by
  simp only [checksumBad, State.recordError, State.dropCompare]
@[simp] theorem checksumBad_lCk (s : State) : (checksumBad s).lCk = s.lCk := by
  simp only [checksumBad, State.recordError, State.dropCompare]
@[simp] theorem checksumBad_hstate (s : State) : (checksumBad s).hstate = s.hstate := by
  simp only [checksumBad, State.recordError, State.dropCompare]
@[simp] theorem checksumBad_hbuf (s : State) : (checksumBad s).hbuf = s.hbuf := by
  simp only [checksumBad, State.recordError, State.dropCompare]
@[simp] theorem checksumBad_host (s : State) : (checksumBad s).host = s.host := by
  simp only [checksumBad, State.recordError, State.dropCompare]
@[simp] theorem checksumBad_schedule (s : State) : (checksumBad s).schedule = s.schedule := by
  simp only [checksumBad, State.recordError, State.dropCompare]

/-! ### `effectCompare` -/

@[simp] theorem effectCompare_hashAlg (s : State) : (effectCompare s).hashAlg = s.hashAlg := by
  simp only [effectCompare]
@[simp] theorem effectCompare_busy (s : State) : (effectCompare s).busy = s.busy := by
  simp only [effectCompare]
@[simp] theorem effectCompare_sstate (s : State) : (effectCompare s).sstate = s.sstate := by
  simp only [effectCompare]
@[simp] theorem effectCompare_ckstate (s : State) : (effectCompare s).ckstate = s.ckstate := by
  simp only [effectCompare]
@[simp] theorem effectCompare_cmpValid (s : State) : (effectCompare s).cmpValid = true := by
  simp only [effectCompare]
@[simp] theorem effectCompare_matchBit (s : State) : (effectCompare s).matchBit = s.hashesEqual := by
  simp only [effectCompare]
@[simp] theorem effectCompare_pend (s : State) : (effectCompare s).pend = s.pend := by
  simp only [effectCompare]
@[simp] theorem effectCompare_errcode (s : State) : (effectCompare s).errcode = s.errcode := by
  simp only [effectCompare]
@[simp] theorem effectCompare_errflags (s : State) : (effectCompare s).errflags = s.errflags := by
  simp only [effectCompare]
@[simp] theorem effectCompare_intEn (s : State) : (effectCompare s).intEn = s.intEn := by
  simp only [effectCompare]
@[simp] theorem effectCompare_intStatus (s : State) : (effectCompare s).intStatus = if s.hashesEqual then s.intStatus else s.intStatus ||| mismatchBit := by
  simp only [effectCompare]
@[simp] theorem effectCompare_key (s : State) : (effectCompare s).key = s.key := by
  simp only [effectCompare]
@[simp] theorem effectCompare_iv (s : State) : (effectCompare s).iv = s.iv := by
  simp only [effectCompare]
@[simp] theorem effectCompare_din (s : State) : (effectCompare s).din = s.din := by
  simp only [effectCompare]
@[simp] theorem effectCompare_dout (s : State) : (effectCompare s).dout = s.dout := by
  simp only [effectCompare]
@[simp] theorem effectCompare_doutLen (s : State) : (effectCompare s).doutLen = s.doutLen := by
  simp only [effectCompare]
@[simp] theorem effectCompare_hcount (s : State) : (effectCompare s).hcount = s.hcount := by
  simp only [effectCompare]
@[simp] theorem effectCompare_ck (s : State) : (effectCompare s).ck = s.ck := by
  simp only [effectCompare]
@[simp] theorem effectCompare_exp (s : State) : (effectCompare s).exp = s.exp := by
  simp only [effectCompare]
@[simp] theorem effectCompare_expLen (s : State) : (effectCompare s).expLen = s.expLen := by
  simp only [effectCompare]
@[simp] theorem effectCompare_digest (s : State) : (effectCompare s).digest = s.digest := by
  simp only [effectCompare]
@[simp] theorem effectCompare_chain (s : State) : (effectCompare s).chain = s.chain := by
  simp only [effectCompare]
@[simp] theorem effectCompare_lKey (s : State) : (effectCompare s).lKey = s.lKey := by
  simp only [effectCompare]
@[simp] theorem effectCompare_lIv (s : State) : (effectCompare s).lIv = s.lIv := by
  simp only [effectCompare]
@[simp] theorem effectCompare_lDin (s : State) : (effectCompare s).lDin = s.lDin := by
  simp only [effectCompare]
@[simp] theorem effectCompare_lCk (s : State) : (effectCompare s).lCk = s.lCk := by
  simp only [effectCompare]
@[simp] theorem effectCompare_hstate (s : State) : (effectCompare s).hstate = s.hstate := by
  simp only [effectCompare]
@[simp] theorem effectCompare_hbuf (s : State) : (effectCompare s).hbuf = s.hbuf := by
  simp only [effectCompare]
@[simp] theorem effectCompare_host (s : State) : (effectCompare s).host = s.host := by
  simp only [effectCompare]
@[simp] theorem effectCompare_schedule (s : State) : (effectCompare s).schedule = s.schedule := by
  simp only [effectCompare]

end Sys2Proof.Machine
end

