-- ==== Sys2Proof/Laws/Host.lean ====
section
/-! SUPPORT. What each update of the host agent does, field by field, and what the destination check can answer. -/

namespace Sys2Proof.Machine

/-! ### `HostAgent.advance` -/

@[simp] theorem HostAgent.advance_program (h : HostAgent) : (h.advance).program = h.program := rfl
@[simp] theorem HostAgent.advance_pc (h : HostAgent) : (h.advance).pc = h.pc + 1 := rfl
@[simp] theorem HostAgent.advance_trace (h : HostAgent) : (h.advance).trace = h.trace := rfl
@[simp] theorem HostAgent.advance_buffer (h : HostAgent) : (h.advance).buffer = h.buffer := rfl
@[simp] theorem HostAgent.advance_outputPath (h : HostAgent) : (h.advance).outputPath = h.outputPath := rfl
@[simp] theorem HostAgent.advance_outputFile (h : HostAgent) : (h.advance).outputFile = h.outputFile := rfl
@[simp] theorem HostAgent.advance_printed (h : HostAgent) : (h.advance).printed = h.printed := rfl
@[simp] theorem HostAgent.advance_partialOutput (h : HostAgent) : (h.advance).partialOutput = h.partialOutput := rfl
@[simp] theorem HostAgent.advance_outcome (h : HostAgent) : (h.advance).outcome = h.outcome := rfl

/-! ### `HostAgent.stay` -/

@[simp] theorem HostAgent.stay_program (h : HostAgent) : (h.stay).program = h.program := rfl
@[simp] theorem HostAgent.stay_pc (h : HostAgent) : (h.stay).pc = h.pc - 1 := rfl
@[simp] theorem HostAgent.stay_trace (h : HostAgent) : (h.stay).trace = h.trace := rfl
@[simp] theorem HostAgent.stay_buffer (h : HostAgent) : (h.stay).buffer = h.buffer := rfl
@[simp] theorem HostAgent.stay_outputPath (h : HostAgent) : (h.stay).outputPath = h.outputPath := rfl
@[simp] theorem HostAgent.stay_outputFile (h : HostAgent) : (h.stay).outputFile = h.outputFile := rfl
@[simp] theorem HostAgent.stay_printed (h : HostAgent) : (h.stay).printed = h.printed := rfl
@[simp] theorem HostAgent.stay_partialOutput (h : HostAgent) : (h.stay).partialOutput = h.partialOutput := rfl
@[simp] theorem HostAgent.stay_outcome (h : HostAgent) : (h.stay).outcome = h.outcome := rfl

/-! ### `HostAgent.record` -/

@[simp] theorem HostAgent.record_program (v : Word) (h : HostAgent) : (h.record v).program = h.program := rfl
@[simp] theorem HostAgent.record_pc (v : Word) (h : HostAgent) : (h.record v).pc = h.pc := rfl
@[simp] theorem HostAgent.record_trace (v : Word) (h : HostAgent) : (h.record v).trace = h.trace ++ [v] := rfl
@[simp] theorem HostAgent.record_buffer (v : Word) (h : HostAgent) : (h.record v).buffer = h.buffer := rfl
@[simp] theorem HostAgent.record_outputPath (v : Word) (h : HostAgent) : (h.record v).outputPath = h.outputPath := rfl
@[simp] theorem HostAgent.record_outputFile (v : Word) (h : HostAgent) : (h.record v).outputFile = h.outputFile := rfl
@[simp] theorem HostAgent.record_printed (v : Word) (h : HostAgent) : (h.record v).printed = h.printed := rfl
@[simp] theorem HostAgent.record_partialOutput (v : Word) (h : HostAgent) : (h.record v).partialOutput = h.partialOutput := rfl
@[simp] theorem HostAgent.record_outcome (v : Word) (h : HostAgent) : (h.record v).outcome = h.outcome := rfl

/-! ### `HostAgent.goto` -/

@[simp] theorem HostAgent.goto_program (l : Label) (h : HostAgent) : (h.goto l).program = h.program := rfl
@[simp] theorem HostAgent.goto_pc (l : Label) (h : HostAgent) : (h.goto l).pc = h.program.findIdx (· == .label l) := rfl
@[simp] theorem HostAgent.goto_trace (l : Label) (h : HostAgent) : (h.goto l).trace = h.trace := rfl
@[simp] theorem HostAgent.goto_buffer (l : Label) (h : HostAgent) : (h.goto l).buffer = h.buffer := rfl
@[simp] theorem HostAgent.goto_outputPath (l : Label) (h : HostAgent) : (h.goto l).outputPath = h.outputPath := rfl
@[simp] theorem HostAgent.goto_outputFile (l : Label) (h : HostAgent) : (h.goto l).outputFile = h.outputFile := rfl
@[simp] theorem HostAgent.goto_printed (l : Label) (h : HostAgent) : (h.goto l).printed = h.printed := rfl
@[simp] theorem HostAgent.goto_partialOutput (l : Label) (h : HostAgent) : (h.goto l).partialOutput = h.partialOutput := rfl
@[simp] theorem HostAgent.goto_outcome (l : Label) (h : HostAgent) : (h.goto l).outcome = h.outcome := rfl

/-! ### `HostAgent.keep` -/

@[simp] theorem HostAgent.keep_program (v : Word) (h : HostAgent) : (h.keep v).program = h.program := rfl
@[simp] theorem HostAgent.keep_pc (v : Word) (h : HostAgent) : (h.keep v).pc = h.pc := rfl
@[simp] theorem HostAgent.keep_trace (v : Word) (h : HostAgent) : (h.keep v).trace = h.trace := rfl
@[simp] theorem HostAgent.keep_buffer (v : Word) (h : HostAgent) : (h.keep v).buffer = h.buffer ++ unpackWord v := rfl
@[simp] theorem HostAgent.keep_outputPath (v : Word) (h : HostAgent) : (h.keep v).outputPath = h.outputPath := rfl
@[simp] theorem HostAgent.keep_outputFile (v : Word) (h : HostAgent) : (h.keep v).outputFile = h.outputFile := rfl
@[simp] theorem HostAgent.keep_printed (v : Word) (h : HostAgent) : (h.keep v).printed = h.printed := rfl
@[simp] theorem HostAgent.keep_partialOutput (v : Word) (h : HostAgent) : (h.keep v).partialOutput = h.partialOutput := rfl
@[simp] theorem HostAgent.keep_outcome (v : Word) (h : HostAgent) : (h.keep v).outcome = h.outcome := rfl

/-! ### `HostAgent.printBytes` -/

@[simp] theorem HostAgent.printBytes_program (n : Nat) (h : HostAgent) : (h.printBytes n).program = h.program := rfl
@[simp] theorem HostAgent.printBytes_pc (n : Nat) (h : HostAgent) : (h.printBytes n).pc = h.pc := rfl
@[simp] theorem HostAgent.printBytes_trace (n : Nat) (h : HostAgent) : (h.printBytes n).trace = h.trace := rfl
@[simp] theorem HostAgent.printBytes_buffer (n : Nat) (h : HostAgent) : (h.printBytes n).buffer = [] := rfl
@[simp] theorem HostAgent.printBytes_outputPath (n : Nat) (h : HostAgent) : (h.printBytes n).outputPath = h.outputPath := rfl
@[simp] theorem HostAgent.printBytes_outputFile (n : Nat) (h : HostAgent) : (h.printBytes n).outputFile = h.outputFile := rfl
@[simp] theorem HostAgent.printBytes_printed (n : Nat) (h : HostAgent) : (h.printBytes n).printed = h.printed ++ [toHex (h.buffer.take n)] := rfl
@[simp] theorem HostAgent.printBytes_partialOutput (n : Nat) (h : HostAgent) : (h.printBytes n).partialOutput = h.partialOutput := rfl
@[simp] theorem HostAgent.printBytes_outcome (n : Nat) (h : HostAgent) : (h.printBytes n).outcome = h.outcome := rfl

/-! ### `HostAgent.finish` -/

@[simp] theorem HostAgent.finish_program (o : RunOutcome) (h : HostAgent) : (h.finish o).program = h.program := rfl
@[simp] theorem HostAgent.finish_pc (o : RunOutcome) (h : HostAgent) : (h.finish o).pc = h.pc := rfl
@[simp] theorem HostAgent.finish_trace (o : RunOutcome) (h : HostAgent) : (h.finish o).trace = h.trace := rfl
@[simp] theorem HostAgent.finish_buffer (o : RunOutcome) (h : HostAgent) : (h.finish o).buffer = h.buffer := rfl
@[simp] theorem HostAgent.finish_outputPath (o : RunOutcome) (h : HostAgent) : (h.finish o).outputPath = h.outputPath := rfl
@[simp] theorem HostAgent.finish_outputFile (o : RunOutcome) (h : HostAgent) : (h.finish o).outputFile = h.outputFile := rfl
@[simp] theorem HostAgent.finish_printed (o : RunOutcome) (h : HostAgent) : (h.finish o).printed = h.printed := rfl
@[simp] theorem HostAgent.finish_partialOutput (o : RunOutcome) (h : HostAgent) : (h.finish o).partialOutput = h.partialOutput := rfl
@[simp] theorem HostAgent.finish_outcome (o : RunOutcome) (h : HostAgent) : (h.finish o).outcome = o := rfl

/-! ### `HostAgent.emitBytes` -/

@[simp] theorem HostAgent.emitBytes_program (n : Nat) (h : HostAgent) : (h.emitBytes n).program = h.program := rfl
@[simp] theorem HostAgent.emitBytes_pc (n : Nat) (h : HostAgent) : (h.emitBytes n).pc = h.pc := rfl
@[simp] theorem HostAgent.emitBytes_trace (n : Nat) (h : HostAgent) : (h.emitBytes n).trace = h.trace := rfl
@[simp] theorem HostAgent.emitBytes_buffer (n : Nat) (h : HostAgent) : (h.emitBytes n).buffer = [] := rfl
@[simp] theorem HostAgent.emitBytes_outputPath (n : Nat) (h : HostAgent) : (h.emitBytes n).outputPath = h.outputPath := rfl
@[simp] theorem HostAgent.emitBytes_printed (n : Nat) (h : HostAgent) : (h.emitBytes n).printed = h.printed := rfl
@[simp] theorem HostAgent.emitBytes_partialOutput (n : Nat) (h : HostAgent) : (h.emitBytes n).partialOutput = h.partialOutput := rfl
@[simp] theorem HostAgent.emitBytes_outcome (n : Nat) (h : HostAgent) : (h.emitBytes n).outcome = h.outcome := rfl

/-! ### `HostAgent.failRun` -/

@[simp] theorem HostAgent.failRun_program (e : HostError) (h : HostAgent) : (h.failRun e).program = h.program := rfl
@[simp] theorem HostAgent.failRun_pc (e : HostError) (h : HostAgent) : (h.failRun e).pc = h.pc := rfl
@[simp] theorem HostAgent.failRun_trace (e : HostError) (h : HostAgent) : (h.failRun e).trace = h.trace := rfl
@[simp] theorem HostAgent.failRun_buffer (e : HostError) (h : HostAgent) : (h.failRun e).buffer = h.buffer := rfl
@[simp] theorem HostAgent.failRun_outputPath (e : HostError) (h : HostAgent) : (h.failRun e).outputPath = h.outputPath := rfl
@[simp] theorem HostAgent.failRun_printed (e : HostError) (h : HostAgent) : (h.failRun e).printed = h.printed := rfl
@[simp] theorem HostAgent.failRun_partialOutput (e : HostError) (h : HostAgent) : (h.failRun e).partialOutput = h.partialOutput := rfl
@[simp] theorem HostAgent.failRun_outcome (e : HostError) (h : HostAgent) : (h.failRun e).outcome = .failed e := rfl

/-- What an emission leaves in the output file: a dry run emits nothing, a writing run appends (R491). -/
theorem HostAgent.emitBytes_outputFile_cases (n : Nat) (h : HostAgent) :
    (h.outputPath = none ∧ (h.emitBytes n).outputFile = h.outputFile) ∨
    (h.outputPath ≠ none ∧ (h.emitBytes n).outputFile = some (h.outputFile.getD [] ++ h.buffer.take n)) := by
  unfold HostAgent.emitBytes
  cases h.outputPath <;> simp

/-- What a fatal error leaves at the output path: no file in a writing run whose `PARTIAL_OUTPUT` is `removed`, else the
file as it was (R492). -/
theorem HostAgent.failRun_outputFile_cases (e : HostError) (h : HostAgent) :
    (h.outputPath ≠ none ∧ h.partialOutput = .removed ∧ (h.failRun e).outputFile = none) ∨
    ((h.outputPath = none ∨ h.partialOutput = .kept) ∧ (h.failRun e).outputFile = h.outputFile) := by
  unfold HostAgent.failRun
  cases h.outputPath <;> cases h.partialOutput <;> simp

/-! ### The destination check -/

/-- Everything the destination check can answer (R492). -/
theorem checkDestination_cases (stripExt : Path → Path) (r : RunRequest) :
    ((r.dryRun = true ∨ stripExt r.inputPath ≠ r.inputPath ∧ (r.existing = none ∨ r.force = true)) ∧
      checkDestination stripExt r = .ok ()) ∨
    (r.dryRun = false ∧ (stripExt r.inputPath = r.inputPath ∨ r.existing ≠ none ∧ r.force = false) ∧
      checkDestination stripExt r = .error .io) := by
  unfold checkDestination outputPathOf
  cases r.dryRun <;> cases r.existing <;> cases r.force <;> by_cases h : stripExt r.inputPath = r.inputPath <;> simp [h]

end Sys2Proof.Machine
end

