-- ==== Sys2Proof/Laws/State.lean ====
section
/-! SUPPORT. One lemma per field of the state and named update, so that no proof unfolds a record update. -/

namespace Sys2Proof.Machine.State

/-! ### `recordError` -/

@[simp] theorem recordError_hashAlg (e : EngineError) (s : State) : (s.recordError e).hashAlg = s.hashAlg := by
  simp only [recordError]
@[simp] theorem recordError_busy (e : EngineError) (s : State) : (s.recordError e).busy = s.busy := by
  simp only [recordError]
@[simp] theorem recordError_sstate (e : EngineError) (s : State) : (s.recordError e).sstate = s.sstate := by
  simp only [recordError]
@[simp] theorem recordError_ckstate (e : EngineError) (s : State) : (s.recordError e).ckstate = s.ckstate := by
  simp only [recordError]
@[simp] theorem recordError_cmpValid (e : EngineError) (s : State) : (s.recordError e).cmpValid = s.cmpValid := by
  simp only [recordError]
@[simp] theorem recordError_matchBit (e : EngineError) (s : State) : (s.recordError e).matchBit = s.matchBit := by
  simp only [recordError]
@[simp] theorem recordError_pend (e : EngineError) (s : State) : (s.recordError e).pend = s.pend := by
  simp only [recordError]
@[simp] theorem recordError_errcode (e : EngineError) (s : State) : (s.recordError e).errcode = some e := by
  simp only [recordError]
@[simp] theorem recordError_errflags (e : EngineError) (s : State) : (s.recordError e).errflags = s.errflags ||| errorBit e := by
  simp only [recordError]
@[simp] theorem recordError_intEn (e : EngineError) (s : State) : (s.recordError e).intEn = s.intEn := by
  simp only [recordError]
@[simp] theorem recordError_intStatus (e : EngineError) (s : State) : (s.recordError e).intStatus = s.intStatus ||| errBit := by
  simp only [recordError]
@[simp] theorem recordError_key (e : EngineError) (s : State) : (s.recordError e).key = s.key := by
  simp only [recordError]
@[simp] theorem recordError_iv (e : EngineError) (s : State) : (s.recordError e).iv = s.iv := by
  simp only [recordError]
@[simp] theorem recordError_din (e : EngineError) (s : State) : (s.recordError e).din = s.din := by
  simp only [recordError]
@[simp] theorem recordError_dout (e : EngineError) (s : State) : (s.recordError e).dout = s.dout := by
  simp only [recordError]
@[simp] theorem recordError_doutLen (e : EngineError) (s : State) : (s.recordError e).doutLen = s.doutLen := by
  simp only [recordError]
@[simp] theorem recordError_hcount (e : EngineError) (s : State) : (s.recordError e).hcount = s.hcount := by
  simp only [recordError]
@[simp] theorem recordError_ck (e : EngineError) (s : State) : (s.recordError e).ck = s.ck := by
  simp only [recordError]
@[simp] theorem recordError_exp (e : EngineError) (s : State) : (s.recordError e).exp = s.exp := by
  simp only [recordError]
@[simp] theorem recordError_expLen (e : EngineError) (s : State) : (s.recordError e).expLen = s.expLen := by
  simp only [recordError]
@[simp] theorem recordError_digest (e : EngineError) (s : State) : (s.recordError e).digest = s.digest := by
  simp only [recordError]
@[simp] theorem recordError_chain (e : EngineError) (s : State) : (s.recordError e).chain = s.chain := by
  simp only [recordError]
@[simp] theorem recordError_lKey (e : EngineError) (s : State) : (s.recordError e).lKey = s.lKey := by
  simp only [recordError]
@[simp] theorem recordError_lIv (e : EngineError) (s : State) : (s.recordError e).lIv = s.lIv := by
  simp only [recordError]
@[simp] theorem recordError_lDin (e : EngineError) (s : State) : (s.recordError e).lDin = s.lDin := by
  simp only [recordError]
@[simp] theorem recordError_lCk (e : EngineError) (s : State) : (s.recordError e).lCk = s.lCk := by
  simp only [recordError]
@[simp] theorem recordError_hstate (e : EngineError) (s : State) : (s.recordError e).hstate = s.hstate := by
  simp only [recordError]
@[simp] theorem recordError_hbuf (e : EngineError) (s : State) : (s.recordError e).hbuf = s.hbuf := by
  simp only [recordError]
@[simp] theorem recordError_host (e : EngineError) (s : State) : (s.recordError e).host = s.host := by
  simp only [recordError]
@[simp] theorem recordError_schedule (e : EngineError) (s : State) : (s.recordError e).schedule = s.schedule := by
  simp only [recordError]

/-! ### `clearErrors` -/

@[simp] theorem clearErrors_hashAlg (s : State) : (s.clearErrors).hashAlg = s.hashAlg := by
  simp only [clearErrors]
@[simp] theorem clearErrors_busy (s : State) : (s.clearErrors).busy = s.busy := by
  simp only [clearErrors]
@[simp] theorem clearErrors_sstate (s : State) : (s.clearErrors).sstate = s.sstate := by
  simp only [clearErrors]
@[simp] theorem clearErrors_ckstate (s : State) : (s.clearErrors).ckstate = s.ckstate := by
  simp only [clearErrors]
@[simp] theorem clearErrors_cmpValid (s : State) : (s.clearErrors).cmpValid = s.cmpValid := by
  simp only [clearErrors]
@[simp] theorem clearErrors_matchBit (s : State) : (s.clearErrors).matchBit = s.matchBit := by
  simp only [clearErrors]
@[simp] theorem clearErrors_pend (s : State) : (s.clearErrors).pend = s.pend := by
  simp only [clearErrors]
@[simp] theorem clearErrors_errcode (s : State) : (s.clearErrors).errcode = none := by
  simp only [clearErrors]
@[simp] theorem clearErrors_errflags (s : State) : (s.clearErrors).errflags = 0 := by
  simp only [clearErrors]
@[simp] theorem clearErrors_intEn (s : State) : (s.clearErrors).intEn = s.intEn := by
  simp only [clearErrors]
@[simp] theorem clearErrors_intStatus (s : State) : (s.clearErrors).intStatus = s.intStatus := by
  simp only [clearErrors]
@[simp] theorem clearErrors_key (s : State) : (s.clearErrors).key = s.key := by
  simp only [clearErrors]
@[simp] theorem clearErrors_iv (s : State) : (s.clearErrors).iv = s.iv := by
  simp only [clearErrors]
@[simp] theorem clearErrors_din (s : State) : (s.clearErrors).din = s.din := by
  simp only [clearErrors]
@[simp] theorem clearErrors_dout (s : State) : (s.clearErrors).dout = s.dout := by
  simp only [clearErrors]
@[simp] theorem clearErrors_doutLen (s : State) : (s.clearErrors).doutLen = s.doutLen := by
  simp only [clearErrors]
@[simp] theorem clearErrors_hcount (s : State) : (s.clearErrors).hcount = s.hcount := by
  simp only [clearErrors]
@[simp] theorem clearErrors_ck (s : State) : (s.clearErrors).ck = s.ck := by
  simp only [clearErrors]
@[simp] theorem clearErrors_exp (s : State) : (s.clearErrors).exp = s.exp := by
  simp only [clearErrors]
@[simp] theorem clearErrors_expLen (s : State) : (s.clearErrors).expLen = s.expLen := by
  simp only [clearErrors]
@[simp] theorem clearErrors_digest (s : State) : (s.clearErrors).digest = s.digest := by
  simp only [clearErrors]
@[simp] theorem clearErrors_chain (s : State) : (s.clearErrors).chain = s.chain := by
  simp only [clearErrors]
@[simp] theorem clearErrors_lKey (s : State) : (s.clearErrors).lKey = s.lKey := by
  simp only [clearErrors]
@[simp] theorem clearErrors_lIv (s : State) : (s.clearErrors).lIv = s.lIv := by
  simp only [clearErrors]
@[simp] theorem clearErrors_lDin (s : State) : (s.clearErrors).lDin = s.lDin := by
  simp only [clearErrors]
@[simp] theorem clearErrors_lCk (s : State) : (s.clearErrors).lCk = s.lCk := by
  simp only [clearErrors]
@[simp] theorem clearErrors_hstate (s : State) : (s.clearErrors).hstate = s.hstate := by
  simp only [clearErrors]
@[simp] theorem clearErrors_hbuf (s : State) : (s.clearErrors).hbuf = s.hbuf := by
  simp only [clearErrors]
@[simp] theorem clearErrors_host (s : State) : (s.clearErrors).host = s.host := by
  simp only [clearErrors]
@[simp] theorem clearErrors_schedule (s : State) : (s.clearErrors).schedule = s.schedule := by
  simp only [clearErrors]

/-! ### `ackInterrupts` -/

@[simp] theorem ackInterrupts_hashAlg (v : Word) (s : State) : (s.ackInterrupts v).hashAlg = s.hashAlg := by
  simp only [ackInterrupts]
@[simp] theorem ackInterrupts_busy (v : Word) (s : State) : (s.ackInterrupts v).busy = s.busy := by
  simp only [ackInterrupts]
@[simp] theorem ackInterrupts_sstate (v : Word) (s : State) : (s.ackInterrupts v).sstate = s.sstate := by
  simp only [ackInterrupts]
@[simp] theorem ackInterrupts_ckstate (v : Word) (s : State) : (s.ackInterrupts v).ckstate = s.ckstate := by
  simp only [ackInterrupts]
@[simp] theorem ackInterrupts_cmpValid (v : Word) (s : State) : (s.ackInterrupts v).cmpValid = s.cmpValid := by
  simp only [ackInterrupts]
@[simp] theorem ackInterrupts_matchBit (v : Word) (s : State) : (s.ackInterrupts v).matchBit = s.matchBit := by
  simp only [ackInterrupts]
@[simp] theorem ackInterrupts_pend (v : Word) (s : State) : (s.ackInterrupts v).pend = s.pend := by
  simp only [ackInterrupts]
@[simp] theorem ackInterrupts_errcode (v : Word) (s : State) : (s.ackInterrupts v).errcode = s.errcode := by
  simp only [ackInterrupts]
@[simp] theorem ackInterrupts_errflags (v : Word) (s : State) : (s.ackInterrupts v).errflags = s.errflags := by
  simp only [ackInterrupts]
@[simp] theorem ackInterrupts_intEn (v : Word) (s : State) : (s.ackInterrupts v).intEn = s.intEn := by
  simp only [ackInterrupts]
@[simp] theorem ackInterrupts_intStatus (v : Word) (s : State) : (s.ackInterrupts v).intStatus = s.intStatus &&& ~~~v &&& intMask := by
  simp only [ackInterrupts]
@[simp] theorem ackInterrupts_key (v : Word) (s : State) : (s.ackInterrupts v).key = s.key := by
  simp only [ackInterrupts]
@[simp] theorem ackInterrupts_iv (v : Word) (s : State) : (s.ackInterrupts v).iv = s.iv := by
  simp only [ackInterrupts]
@[simp] theorem ackInterrupts_din (v : Word) (s : State) : (s.ackInterrupts v).din = s.din := by
  simp only [ackInterrupts]
@[simp] theorem ackInterrupts_dout (v : Word) (s : State) : (s.ackInterrupts v).dout = s.dout := by
  simp only [ackInterrupts]
@[simp] theorem ackInterrupts_doutLen (v : Word) (s : State) : (s.ackInterrupts v).doutLen = s.doutLen := by
  simp only [ackInterrupts]
@[simp] theorem ackInterrupts_hcount (v : Word) (s : State) : (s.ackInterrupts v).hcount = s.hcount := by
  simp only [ackInterrupts]
@[simp] theorem ackInterrupts_ck (v : Word) (s : State) : (s.ackInterrupts v).ck = s.ck := by
  simp only [ackInterrupts]
@[simp] theorem ackInterrupts_exp (v : Word) (s : State) : (s.ackInterrupts v).exp = s.exp := by
  simp only [ackInterrupts]
@[simp] theorem ackInterrupts_expLen (v : Word) (s : State) : (s.ackInterrupts v).expLen = s.expLen := by
  simp only [ackInterrupts]
@[simp] theorem ackInterrupts_digest (v : Word) (s : State) : (s.ackInterrupts v).digest = s.digest := by
  simp only [ackInterrupts]
@[simp] theorem ackInterrupts_chain (v : Word) (s : State) : (s.ackInterrupts v).chain = s.chain := by
  simp only [ackInterrupts]
@[simp] theorem ackInterrupts_lKey (v : Word) (s : State) : (s.ackInterrupts v).lKey = s.lKey := by
  simp only [ackInterrupts]
@[simp] theorem ackInterrupts_lIv (v : Word) (s : State) : (s.ackInterrupts v).lIv = s.lIv := by
  simp only [ackInterrupts]
@[simp] theorem ackInterrupts_lDin (v : Word) (s : State) : (s.ackInterrupts v).lDin = s.lDin := by
  simp only [ackInterrupts]
@[simp] theorem ackInterrupts_lCk (v : Word) (s : State) : (s.ackInterrupts v).lCk = s.lCk := by
  simp only [ackInterrupts]
@[simp] theorem ackInterrupts_hstate (v : Word) (s : State) : (s.ackInterrupts v).hstate = s.hstate := by
  simp only [ackInterrupts]
@[simp] theorem ackInterrupts_hbuf (v : Word) (s : State) : (s.ackInterrupts v).hbuf = s.hbuf := by
  simp only [ackInterrupts]
@[simp] theorem ackInterrupts_host (v : Word) (s : State) : (s.ackInterrupts v).host = s.host := by
  simp only [ackInterrupts]
@[simp] theorem ackInterrupts_schedule (v : Word) (s : State) : (s.ackInterrupts v).schedule = s.schedule := by
  simp only [ackInterrupts]

/-! ### `issue` -/

@[simp] theorem issue_hashAlg (c : LongCommand) (s : State) : (s.issue c).hashAlg = s.hashAlg := by
  simp only [issue]
@[simp] theorem issue_busy (c : LongCommand) (s : State) : (s.issue c).busy = true := by
  simp only [issue]
@[simp] theorem issue_sstate (c : LongCommand) (s : State) : (s.issue c).sstate = s.sstate := by
  simp only [issue]
@[simp] theorem issue_ckstate (c : LongCommand) (s : State) : (s.issue c).ckstate = s.ckstate := by
  simp only [issue]
@[simp] theorem issue_cmpValid (c : LongCommand) (s : State) : (s.issue c).cmpValid = s.cmpValid := by
  simp only [issue]
@[simp] theorem issue_matchBit (c : LongCommand) (s : State) : (s.issue c).matchBit = s.matchBit := by
  simp only [issue]
@[simp] theorem issue_pend (c : LongCommand) (s : State) : (s.issue c).pend = some c := by
  simp only [issue]
@[simp] theorem issue_errcode (c : LongCommand) (s : State) : (s.issue c).errcode = s.errcode := by
  simp only [issue]
@[simp] theorem issue_errflags (c : LongCommand) (s : State) : (s.issue c).errflags = s.errflags := by
  simp only [issue]
@[simp] theorem issue_intEn (c : LongCommand) (s : State) : (s.issue c).intEn = s.intEn := by
  simp only [issue]
@[simp] theorem issue_intStatus (c : LongCommand) (s : State) : (s.issue c).intStatus = s.intStatus := by
  simp only [issue]
@[simp] theorem issue_key (c : LongCommand) (s : State) : (s.issue c).key = s.key := by
  simp only [issue]
@[simp] theorem issue_iv (c : LongCommand) (s : State) : (s.issue c).iv = s.iv := by
  simp only [issue]
@[simp] theorem issue_din (c : LongCommand) (s : State) : (s.issue c).din = s.din := by
  simp only [issue]
@[simp] theorem issue_dout (c : LongCommand) (s : State) : (s.issue c).dout = s.dout := by
  simp only [issue]
@[simp] theorem issue_doutLen (c : LongCommand) (s : State) : (s.issue c).doutLen = s.doutLen := by
  simp only [issue]
@[simp] theorem issue_hcount (c : LongCommand) (s : State) : (s.issue c).hcount = s.hcount := by
  simp only [issue]
@[simp] theorem issue_ck (c : LongCommand) (s : State) : (s.issue c).ck = s.ck := by
  simp only [issue]
@[simp] theorem issue_exp (c : LongCommand) (s : State) : (s.issue c).exp = s.exp := by
  simp only [issue]
@[simp] theorem issue_expLen (c : LongCommand) (s : State) : (s.issue c).expLen = s.expLen := by
  simp only [issue]
@[simp] theorem issue_digest (c : LongCommand) (s : State) : (s.issue c).digest = s.digest := by
  simp only [issue]
@[simp] theorem issue_chain (c : LongCommand) (s : State) : (s.issue c).chain = s.chain := by
  simp only [issue]
@[simp] theorem issue_lKey (c : LongCommand) (s : State) : (s.issue c).lKey = s.key := by
  simp only [issue]
@[simp] theorem issue_lIv (c : LongCommand) (s : State) : (s.issue c).lIv = s.iv := by
  simp only [issue]
@[simp] theorem issue_lDin (c : LongCommand) (s : State) : (s.issue c).lDin = s.din := by
  simp only [issue]
@[simp] theorem issue_lCk (c : LongCommand) (s : State) : (s.issue c).lCk = s.ck := by
  simp only [issue]
@[simp] theorem issue_hstate (c : LongCommand) (s : State) : (s.issue c).hstate = s.hstate := by
  simp only [issue]
@[simp] theorem issue_hbuf (c : LongCommand) (s : State) : (s.issue c).hbuf = s.hbuf := by
  simp only [issue]
@[simp] theorem issue_host (c : LongCommand) (s : State) : (s.issue c).host = s.host := by
  simp only [issue]
@[simp] theorem issue_schedule (c : LongCommand) (s : State) : (s.issue c).schedule = s.schedule := by
  simp only [issue]

/-! ### `finishCompletion` -/

@[simp] theorem finishCompletion_hashAlg (s : State) : (s.finishCompletion).hashAlg = s.hashAlg := by
  simp only [finishCompletion]
@[simp] theorem finishCompletion_busy (s : State) : (s.finishCompletion).busy = false := by
  simp only [finishCompletion]
@[simp] theorem finishCompletion_sstate (s : State) : (s.finishCompletion).sstate = s.sstate := by
  simp only [finishCompletion]
@[simp] theorem finishCompletion_ckstate (s : State) : (s.finishCompletion).ckstate = s.ckstate := by
  simp only [finishCompletion]
@[simp] theorem finishCompletion_cmpValid (s : State) : (s.finishCompletion).cmpValid = s.cmpValid := by
  simp only [finishCompletion]
@[simp] theorem finishCompletion_matchBit (s : State) : (s.finishCompletion).matchBit = s.matchBit := by
  simp only [finishCompletion]
@[simp] theorem finishCompletion_pend (s : State) : (s.finishCompletion).pend = none := by
  simp only [finishCompletion]
@[simp] theorem finishCompletion_errcode (s : State) : (s.finishCompletion).errcode = s.errcode := by
  simp only [finishCompletion]
@[simp] theorem finishCompletion_errflags (s : State) : (s.finishCompletion).errflags = s.errflags := by
  simp only [finishCompletion]
@[simp] theorem finishCompletion_intEn (s : State) : (s.finishCompletion).intEn = s.intEn := by
  simp only [finishCompletion]
@[simp] theorem finishCompletion_intStatus (s : State) : (s.finishCompletion).intStatus = s.intStatus ||| doneBit := by
  simp only [finishCompletion]
@[simp] theorem finishCompletion_key (s : State) : (s.finishCompletion).key = s.key := by
  simp only [finishCompletion]
@[simp] theorem finishCompletion_iv (s : State) : (s.finishCompletion).iv = s.iv := by
  simp only [finishCompletion]
@[simp] theorem finishCompletion_din (s : State) : (s.finishCompletion).din = s.din := by
  simp only [finishCompletion]
@[simp] theorem finishCompletion_dout (s : State) : (s.finishCompletion).dout = s.dout := by
  simp only [finishCompletion]
@[simp] theorem finishCompletion_doutLen (s : State) : (s.finishCompletion).doutLen = s.doutLen := by
  simp only [finishCompletion]
@[simp] theorem finishCompletion_hcount (s : State) : (s.finishCompletion).hcount = s.hcount := by
  simp only [finishCompletion]
@[simp] theorem finishCompletion_ck (s : State) : (s.finishCompletion).ck = s.ck := by
  simp only [finishCompletion]
@[simp] theorem finishCompletion_exp (s : State) : (s.finishCompletion).exp = s.exp := by
  simp only [finishCompletion]
@[simp] theorem finishCompletion_expLen (s : State) : (s.finishCompletion).expLen = s.expLen := by
  simp only [finishCompletion]
@[simp] theorem finishCompletion_digest (s : State) : (s.finishCompletion).digest = s.digest := by
  simp only [finishCompletion]
@[simp] theorem finishCompletion_chain (s : State) : (s.finishCompletion).chain = s.chain := by
  simp only [finishCompletion]
@[simp] theorem finishCompletion_lKey (s : State) : (s.finishCompletion).lKey = s.lKey := by
  simp only [finishCompletion]
@[simp] theorem finishCompletion_lIv (s : State) : (s.finishCompletion).lIv = s.lIv := by
  simp only [finishCompletion]
@[simp] theorem finishCompletion_lDin (s : State) : (s.finishCompletion).lDin = s.lDin := by
  simp only [finishCompletion]
@[simp] theorem finishCompletion_lCk (s : State) : (s.finishCompletion).lCk = s.lCk := by
  simp only [finishCompletion]
@[simp] theorem finishCompletion_hstate (s : State) : (s.finishCompletion).hstate = s.hstate := by
  simp only [finishCompletion]
@[simp] theorem finishCompletion_hbuf (s : State) : (s.finishCompletion).hbuf = s.hbuf := by
  simp only [finishCompletion]
@[simp] theorem finishCompletion_host (s : State) : (s.finishCompletion).host = s.host := by
  simp only [finishCompletion]
@[simp] theorem finishCompletion_schedule (s : State) : (s.finishCompletion).schedule = s.schedule := by
  simp only [finishCompletion]

/-! ### `dropCompare` -/

@[simp] theorem dropCompare_hashAlg (s : State) : (s.dropCompare).hashAlg = s.hashAlg := by
  simp only [dropCompare]
@[simp] theorem dropCompare_busy (s : State) : (s.dropCompare).busy = s.busy := by
  simp only [dropCompare]
@[simp] theorem dropCompare_sstate (s : State) : (s.dropCompare).sstate = s.sstate := by
  simp only [dropCompare]
@[simp] theorem dropCompare_ckstate (s : State) : (s.dropCompare).ckstate = s.ckstate := by
  simp only [dropCompare]
@[simp] theorem dropCompare_cmpValid (s : State) : (s.dropCompare).cmpValid = false := by
  simp only [dropCompare]
@[simp] theorem dropCompare_matchBit (s : State) : (s.dropCompare).matchBit = false := by
  simp only [dropCompare]
@[simp] theorem dropCompare_pend (s : State) : (s.dropCompare).pend = s.pend := by
  simp only [dropCompare]
@[simp] theorem dropCompare_errcode (s : State) : (s.dropCompare).errcode = s.errcode := by
  simp only [dropCompare]
@[simp] theorem dropCompare_errflags (s : State) : (s.dropCompare).errflags = s.errflags := by
  simp only [dropCompare]
@[simp] theorem dropCompare_intEn (s : State) : (s.dropCompare).intEn = s.intEn := by
  simp only [dropCompare]
@[simp] theorem dropCompare_intStatus (s : State) : (s.dropCompare).intStatus = s.intStatus := by
  simp only [dropCompare]
@[simp] theorem dropCompare_key (s : State) : (s.dropCompare).key = s.key := by
  simp only [dropCompare]
@[simp] theorem dropCompare_iv (s : State) : (s.dropCompare).iv = s.iv := by
  simp only [dropCompare]
@[simp] theorem dropCompare_din (s : State) : (s.dropCompare).din = s.din := by
  simp only [dropCompare]
@[simp] theorem dropCompare_dout (s : State) : (s.dropCompare).dout = s.dout := by
  simp only [dropCompare]
@[simp] theorem dropCompare_doutLen (s : State) : (s.dropCompare).doutLen = s.doutLen := by
  simp only [dropCompare]
@[simp] theorem dropCompare_hcount (s : State) : (s.dropCompare).hcount = s.hcount := by
  simp only [dropCompare]
@[simp] theorem dropCompare_ck (s : State) : (s.dropCompare).ck = s.ck := by
  simp only [dropCompare]
@[simp] theorem dropCompare_exp (s : State) : (s.dropCompare).exp = s.exp := by
  simp only [dropCompare]
@[simp] theorem dropCompare_expLen (s : State) : (s.dropCompare).expLen = s.expLen := by
  simp only [dropCompare]
@[simp] theorem dropCompare_digest (s : State) : (s.dropCompare).digest = s.digest := by
  simp only [dropCompare]
@[simp] theorem dropCompare_chain (s : State) : (s.dropCompare).chain = s.chain := by
  simp only [dropCompare]
@[simp] theorem dropCompare_lKey (s : State) : (s.dropCompare).lKey = s.lKey := by
  simp only [dropCompare]
@[simp] theorem dropCompare_lIv (s : State) : (s.dropCompare).lIv = s.lIv := by
  simp only [dropCompare]
@[simp] theorem dropCompare_lDin (s : State) : (s.dropCompare).lDin = s.lDin := by
  simp only [dropCompare]
@[simp] theorem dropCompare_lCk (s : State) : (s.dropCompare).lCk = s.lCk := by
  simp only [dropCompare]
@[simp] theorem dropCompare_hstate (s : State) : (s.dropCompare).hstate = s.hstate := by
  simp only [dropCompare]
@[simp] theorem dropCompare_hbuf (s : State) : (s.dropCompare).hbuf = s.hbuf := by
  simp only [dropCompare]
@[simp] theorem dropCompare_host (s : State) : (s.dropCompare).host = s.host := by
  simp only [dropCompare]
@[simp] theorem dropCompare_schedule (s : State) : (s.dropCompare).schedule = s.schedule := by
  simp only [dropCompare]

/-! ### `hashReset` -/

@[simp] theorem hashReset_hashAlg (s : State) : (s.hashReset).hashAlg = s.hashAlg := by
  simp only [hashReset]
@[simp] theorem hashReset_busy (s : State) : (s.hashReset).busy = s.busy := by
  simp only [hashReset]
@[simp] theorem hashReset_sstate (s : State) : (s.hashReset).sstate = s.sstate := by
  simp only [hashReset]
@[simp] theorem hashReset_ckstate (s : State) : (s.hashReset).ckstate = s.ckstate := by
  simp only [hashReset]
@[simp] theorem hashReset_cmpValid (s : State) : (s.hashReset).cmpValid = s.cmpValid := by
  simp only [hashReset]
@[simp] theorem hashReset_matchBit (s : State) : (s.hashReset).matchBit = s.matchBit := by
  simp only [hashReset]
@[simp] theorem hashReset_pend (s : State) : (s.hashReset).pend = s.pend := by
  simp only [hashReset]
@[simp] theorem hashReset_errcode (s : State) : (s.hashReset).errcode = s.errcode := by
  simp only [hashReset]
@[simp] theorem hashReset_errflags (s : State) : (s.hashReset).errflags = s.errflags := by
  simp only [hashReset]
@[simp] theorem hashReset_intEn (s : State) : (s.hashReset).intEn = s.intEn := by
  simp only [hashReset]
@[simp] theorem hashReset_intStatus (s : State) : (s.hashReset).intStatus = s.intStatus := by
  simp only [hashReset]
@[simp] theorem hashReset_key (s : State) : (s.hashReset).key = s.key := by
  simp only [hashReset]
@[simp] theorem hashReset_iv (s : State) : (s.hashReset).iv = s.iv := by
  simp only [hashReset]
@[simp] theorem hashReset_din (s : State) : (s.hashReset).din = s.din := by
  simp only [hashReset]
@[simp] theorem hashReset_dout (s : State) : (s.hashReset).dout = s.dout := by
  simp only [hashReset]
@[simp] theorem hashReset_doutLen (s : State) : (s.hashReset).doutLen = s.doutLen := by
  simp only [hashReset]
@[simp] theorem hashReset_hcount (s : State) : (s.hashReset).hcount = 0 := by
  simp only [hashReset]
@[simp] theorem hashReset_ck (s : State) : (s.hashReset).ck = s.ck := by
  simp only [hashReset]
@[simp] theorem hashReset_exp (s : State) : (s.hashReset).exp = s.exp := by
  simp only [hashReset]
@[simp] theorem hashReset_expLen (s : State) : (s.hashReset).expLen = s.expLen := by
  simp only [hashReset]
@[simp] theorem hashReset_digest (s : State) : (s.hashReset).digest = s.digest := by
  simp only [hashReset]
@[simp] theorem hashReset_chain (s : State) : (s.hashReset).chain = s.chain := by
  simp only [hashReset]
@[simp] theorem hashReset_lKey (s : State) : (s.hashReset).lKey = s.lKey := by
  simp only [hashReset]
@[simp] theorem hashReset_lIv (s : State) : (s.hashReset).lIv = s.lIv := by
  simp only [hashReset]
@[simp] theorem hashReset_lDin (s : State) : (s.hashReset).lDin = s.lDin := by
  simp only [hashReset]
@[simp] theorem hashReset_lCk (s : State) : (s.hashReset).lCk = s.lCk := by
  simp only [hashReset]
@[simp] theorem hashReset_hstate (s : State) : (s.hashReset).hstate = hashInit s.hashAlg := by
  simp only [hashReset]
@[simp] theorem hashReset_hbuf (s : State) : (s.hashReset).hbuf = [] := by
  simp only [hashReset]
@[simp] theorem hashReset_host (s : State) : (s.hashReset).host = s.host := by
  simp only [hashReset]
@[simp] theorem hashReset_schedule (s : State) : (s.hashReset).schedule = s.schedule := by
  simp only [hashReset]

/-! ### `absorb` -/

@[simp] theorem absorb_hashAlg (m : List Byte) (s : State) : (s.absorb m).hashAlg = s.hashAlg := by
  simp only [absorb]
@[simp] theorem absorb_busy (m : List Byte) (s : State) : (s.absorb m).busy = s.busy := by
  simp only [absorb]
@[simp] theorem absorb_sstate (m : List Byte) (s : State) : (s.absorb m).sstate = s.sstate := by
  simp only [absorb]
@[simp] theorem absorb_ckstate (m : List Byte) (s : State) : (s.absorb m).ckstate = s.ckstate := by
  simp only [absorb]
@[simp] theorem absorb_cmpValid (m : List Byte) (s : State) : (s.absorb m).cmpValid = s.cmpValid := by
  simp only [absorb]
@[simp] theorem absorb_matchBit (m : List Byte) (s : State) : (s.absorb m).matchBit = s.matchBit := by
  simp only [absorb]
@[simp] theorem absorb_pend (m : List Byte) (s : State) : (s.absorb m).pend = s.pend := by
  simp only [absorb]
@[simp] theorem absorb_errcode (m : List Byte) (s : State) : (s.absorb m).errcode = s.errcode := by
  simp only [absorb]
@[simp] theorem absorb_errflags (m : List Byte) (s : State) : (s.absorb m).errflags = s.errflags := by
  simp only [absorb]
@[simp] theorem absorb_intEn (m : List Byte) (s : State) : (s.absorb m).intEn = s.intEn := by
  simp only [absorb]
@[simp] theorem absorb_intStatus (m : List Byte) (s : State) : (s.absorb m).intStatus = s.intStatus := by
  simp only [absorb]
@[simp] theorem absorb_key (m : List Byte) (s : State) : (s.absorb m).key = s.key := by
  simp only [absorb]
@[simp] theorem absorb_iv (m : List Byte) (s : State) : (s.absorb m).iv = s.iv := by
  simp only [absorb]
@[simp] theorem absorb_din (m : List Byte) (s : State) : (s.absorb m).din = s.din := by
  simp only [absorb]
@[simp] theorem absorb_dout (m : List Byte) (s : State) : (s.absorb m).dout = s.dout := by
  simp only [absorb]
@[simp] theorem absorb_doutLen (m : List Byte) (s : State) : (s.absorb m).doutLen = s.doutLen := by
  simp only [absorb]
@[simp] theorem absorb_hcount (m : List Byte) (s : State) : (s.absorb m).hcount = s.hcount + BitVec.ofNat 64 m.length := by
  simp only [absorb]
@[simp] theorem absorb_ck (m : List Byte) (s : State) : (s.absorb m).ck = s.ck := by
  simp only [absorb]
@[simp] theorem absorb_exp (m : List Byte) (s : State) : (s.absorb m).exp = s.exp := by
  simp only [absorb]
@[simp] theorem absorb_expLen (m : List Byte) (s : State) : (s.absorb m).expLen = s.expLen := by
  simp only [absorb]
@[simp] theorem absorb_digest (m : List Byte) (s : State) : (s.absorb m).digest = s.digest := by
  simp only [absorb]
@[simp] theorem absorb_chain (m : List Byte) (s : State) : (s.absorb m).chain = s.chain := by
  simp only [absorb]
@[simp] theorem absorb_lKey (m : List Byte) (s : State) : (s.absorb m).lKey = s.lKey := by
  simp only [absorb]
@[simp] theorem absorb_lIv (m : List Byte) (s : State) : (s.absorb m).lIv = s.lIv := by
  simp only [absorb]
@[simp] theorem absorb_lDin (m : List Byte) (s : State) : (s.absorb m).lDin = s.lDin := by
  simp only [absorb]
@[simp] theorem absorb_lCk (m : List Byte) (s : State) : (s.absorb m).lCk = s.lCk := by
  simp only [absorb]
@[simp] theorem absorb_hstate (m : List Byte) (s : State) : (s.absorb m).hstate = foldBlocks HashState.compress 64 ((s.hbuf ++ m).length / 64) (s.hbuf ++ m) s.hstate := by
  simp only [absorb]
@[simp] theorem absorb_hbuf (m : List Byte) (s : State) : (s.absorb m).hbuf = (s.hbuf ++ m).drop (64 * ((s.hbuf ++ m).length / 64)) := by
  simp only [absorb]
@[simp] theorem absorb_host (m : List Byte) (s : State) : (s.absorb m).host = s.host := by
  simp only [absorb]
@[simp] theorem absorb_schedule (m : List Byte) (s : State) : (s.absorb m).schedule = s.schedule := by
  simp only [absorb]

/-! ### `setIntEn` -/

@[simp] theorem setIntEn_hashAlg (v : Word) (s : State) : (s.setIntEn v).hashAlg = s.hashAlg := by
  simp only [setIntEn]
@[simp] theorem setIntEn_busy (v : Word) (s : State) : (s.setIntEn v).busy = s.busy := by
  simp only [setIntEn]
@[simp] theorem setIntEn_sstate (v : Word) (s : State) : (s.setIntEn v).sstate = s.sstate := by
  simp only [setIntEn]
@[simp] theorem setIntEn_ckstate (v : Word) (s : State) : (s.setIntEn v).ckstate = s.ckstate := by
  simp only [setIntEn]
@[simp] theorem setIntEn_cmpValid (v : Word) (s : State) : (s.setIntEn v).cmpValid = s.cmpValid := by
  simp only [setIntEn]
@[simp] theorem setIntEn_matchBit (v : Word) (s : State) : (s.setIntEn v).matchBit = s.matchBit := by
  simp only [setIntEn]
@[simp] theorem setIntEn_pend (v : Word) (s : State) : (s.setIntEn v).pend = s.pend := by
  simp only [setIntEn]
@[simp] theorem setIntEn_errcode (v : Word) (s : State) : (s.setIntEn v).errcode = s.errcode := by
  simp only [setIntEn]
@[simp] theorem setIntEn_errflags (v : Word) (s : State) : (s.setIntEn v).errflags = s.errflags := by
  simp only [setIntEn]
@[simp] theorem setIntEn_intEn (v : Word) (s : State) : (s.setIntEn v).intEn = v &&& intMask := by
  simp only [setIntEn]
@[simp] theorem setIntEn_intStatus (v : Word) (s : State) : (s.setIntEn v).intStatus = s.intStatus := by
  simp only [setIntEn]
@[simp] theorem setIntEn_key (v : Word) (s : State) : (s.setIntEn v).key = s.key := by
  simp only [setIntEn]
@[simp] theorem setIntEn_iv (v : Word) (s : State) : (s.setIntEn v).iv = s.iv := by
  simp only [setIntEn]
@[simp] theorem setIntEn_din (v : Word) (s : State) : (s.setIntEn v).din = s.din := by
  simp only [setIntEn]
@[simp] theorem setIntEn_dout (v : Word) (s : State) : (s.setIntEn v).dout = s.dout := by
  simp only [setIntEn]
@[simp] theorem setIntEn_doutLen (v : Word) (s : State) : (s.setIntEn v).doutLen = s.doutLen := by
  simp only [setIntEn]
@[simp] theorem setIntEn_hcount (v : Word) (s : State) : (s.setIntEn v).hcount = s.hcount := by
  simp only [setIntEn]
@[simp] theorem setIntEn_ck (v : Word) (s : State) : (s.setIntEn v).ck = s.ck := by
  simp only [setIntEn]
@[simp] theorem setIntEn_exp (v : Word) (s : State) : (s.setIntEn v).exp = s.exp := by
  simp only [setIntEn]
@[simp] theorem setIntEn_expLen (v : Word) (s : State) : (s.setIntEn v).expLen = s.expLen := by
  simp only [setIntEn]
@[simp] theorem setIntEn_digest (v : Word) (s : State) : (s.setIntEn v).digest = s.digest := by
  simp only [setIntEn]
@[simp] theorem setIntEn_chain (v : Word) (s : State) : (s.setIntEn v).chain = s.chain := by
  simp only [setIntEn]
@[simp] theorem setIntEn_lKey (v : Word) (s : State) : (s.setIntEn v).lKey = s.lKey := by
  simp only [setIntEn]
@[simp] theorem setIntEn_lIv (v : Word) (s : State) : (s.setIntEn v).lIv = s.lIv := by
  simp only [setIntEn]
@[simp] theorem setIntEn_lDin (v : Word) (s : State) : (s.setIntEn v).lDin = s.lDin := by
  simp only [setIntEn]
@[simp] theorem setIntEn_lCk (v : Word) (s : State) : (s.setIntEn v).lCk = s.lCk := by
  simp only [setIntEn]
@[simp] theorem setIntEn_hstate (v : Word) (s : State) : (s.setIntEn v).hstate = s.hstate := by
  simp only [setIntEn]
@[simp] theorem setIntEn_hbuf (v : Word) (s : State) : (s.setIntEn v).hbuf = s.hbuf := by
  simp only [setIntEn]
@[simp] theorem setIntEn_host (v : Word) (s : State) : (s.setIntEn v).host = s.host := by
  simp only [setIntEn]
@[simp] theorem setIntEn_schedule (v : Word) (s : State) : (s.setIntEn v).schedule = s.schedule := by
  simp only [setIntEn]

/-! ### `setKeyWord` -/

@[simp] theorem setKeyWord_hashAlg (k : Nat) (v : Word) (s : State) : (s.setKeyWord k v).hashAlg = s.hashAlg := by
  simp only [setKeyWord]
@[simp] theorem setKeyWord_busy (k : Nat) (v : Word) (s : State) : (s.setKeyWord k v).busy = s.busy := by
  simp only [setKeyWord]
@[simp] theorem setKeyWord_sstate (k : Nat) (v : Word) (s : State) : (s.setKeyWord k v).sstate = s.sstate := by
  simp only [setKeyWord]
@[simp] theorem setKeyWord_ckstate (k : Nat) (v : Word) (s : State) : (s.setKeyWord k v).ckstate = s.ckstate := by
  simp only [setKeyWord]
@[simp] theorem setKeyWord_cmpValid (k : Nat) (v : Word) (s : State) : (s.setKeyWord k v).cmpValid = s.cmpValid := by
  simp only [setKeyWord]
@[simp] theorem setKeyWord_matchBit (k : Nat) (v : Word) (s : State) : (s.setKeyWord k v).matchBit = s.matchBit := by
  simp only [setKeyWord]
@[simp] theorem setKeyWord_pend (k : Nat) (v : Word) (s : State) : (s.setKeyWord k v).pend = s.pend := by
  simp only [setKeyWord]
@[simp] theorem setKeyWord_errcode (k : Nat) (v : Word) (s : State) : (s.setKeyWord k v).errcode = s.errcode := by
  simp only [setKeyWord]
@[simp] theorem setKeyWord_errflags (k : Nat) (v : Word) (s : State) : (s.setKeyWord k v).errflags = s.errflags := by
  simp only [setKeyWord]
@[simp] theorem setKeyWord_intEn (k : Nat) (v : Word) (s : State) : (s.setKeyWord k v).intEn = s.intEn := by
  simp only [setKeyWord]
@[simp] theorem setKeyWord_intStatus (k : Nat) (v : Word) (s : State) : (s.setKeyWord k v).intStatus = s.intStatus := by
  simp only [setKeyWord]
@[simp] theorem setKeyWord_key (k : Nat) (v : Word) (s : State) : (s.setKeyWord k v).key = setWord s.key k v := by
  simp only [setKeyWord]
@[simp] theorem setKeyWord_iv (k : Nat) (v : Word) (s : State) : (s.setKeyWord k v).iv = s.iv := by
  simp only [setKeyWord]
@[simp] theorem setKeyWord_din (k : Nat) (v : Word) (s : State) : (s.setKeyWord k v).din = s.din := by
  simp only [setKeyWord]
@[simp] theorem setKeyWord_dout (k : Nat) (v : Word) (s : State) : (s.setKeyWord k v).dout = s.dout := by
  simp only [setKeyWord]
@[simp] theorem setKeyWord_doutLen (k : Nat) (v : Word) (s : State) : (s.setKeyWord k v).doutLen = s.doutLen := by
  simp only [setKeyWord]
@[simp] theorem setKeyWord_hcount (k : Nat) (v : Word) (s : State) : (s.setKeyWord k v).hcount = s.hcount := by
  simp only [setKeyWord]
@[simp] theorem setKeyWord_ck (k : Nat) (v : Word) (s : State) : (s.setKeyWord k v).ck = s.ck := by
  simp only [setKeyWord]
@[simp] theorem setKeyWord_exp (k : Nat) (v : Word) (s : State) : (s.setKeyWord k v).exp = s.exp := by
  simp only [setKeyWord]
@[simp] theorem setKeyWord_expLen (k : Nat) (v : Word) (s : State) : (s.setKeyWord k v).expLen = s.expLen := by
  simp only [setKeyWord]
@[simp] theorem setKeyWord_digest (k : Nat) (v : Word) (s : State) : (s.setKeyWord k v).digest = s.digest := by
  simp only [setKeyWord]
@[simp] theorem setKeyWord_chain (k : Nat) (v : Word) (s : State) : (s.setKeyWord k v).chain = s.chain := by
  simp only [setKeyWord]
@[simp] theorem setKeyWord_lKey (k : Nat) (v : Word) (s : State) : (s.setKeyWord k v).lKey = s.lKey := by
  simp only [setKeyWord]
@[simp] theorem setKeyWord_lIv (k : Nat) (v : Word) (s : State) : (s.setKeyWord k v).lIv = s.lIv := by
  simp only [setKeyWord]
@[simp] theorem setKeyWord_lDin (k : Nat) (v : Word) (s : State) : (s.setKeyWord k v).lDin = s.lDin := by
  simp only [setKeyWord]
@[simp] theorem setKeyWord_lCk (k : Nat) (v : Word) (s : State) : (s.setKeyWord k v).lCk = s.lCk := by
  simp only [setKeyWord]
@[simp] theorem setKeyWord_hstate (k : Nat) (v : Word) (s : State) : (s.setKeyWord k v).hstate = s.hstate := by
  simp only [setKeyWord]
@[simp] theorem setKeyWord_hbuf (k : Nat) (v : Word) (s : State) : (s.setKeyWord k v).hbuf = s.hbuf := by
  simp only [setKeyWord]
@[simp] theorem setKeyWord_host (k : Nat) (v : Word) (s : State) : (s.setKeyWord k v).host = s.host := by
  simp only [setKeyWord]
@[simp] theorem setKeyWord_schedule (k : Nat) (v : Word) (s : State) : (s.setKeyWord k v).schedule = s.schedule := by
  simp only [setKeyWord]

/-! ### `setIvWord` -/

@[simp] theorem setIvWord_hashAlg (k : Nat) (v : Word) (s : State) : (s.setIvWord k v).hashAlg = s.hashAlg := by
  simp only [setIvWord]
@[simp] theorem setIvWord_busy (k : Nat) (v : Word) (s : State) : (s.setIvWord k v).busy = s.busy := by
  simp only [setIvWord]
@[simp] theorem setIvWord_sstate (k : Nat) (v : Word) (s : State) : (s.setIvWord k v).sstate = s.sstate := by
  simp only [setIvWord]
@[simp] theorem setIvWord_ckstate (k : Nat) (v : Word) (s : State) : (s.setIvWord k v).ckstate = s.ckstate := by
  simp only [setIvWord]
@[simp] theorem setIvWord_cmpValid (k : Nat) (v : Word) (s : State) : (s.setIvWord k v).cmpValid = s.cmpValid := by
  simp only [setIvWord]
@[simp] theorem setIvWord_matchBit (k : Nat) (v : Word) (s : State) : (s.setIvWord k v).matchBit = s.matchBit := by
  simp only [setIvWord]
@[simp] theorem setIvWord_pend (k : Nat) (v : Word) (s : State) : (s.setIvWord k v).pend = s.pend := by
  simp only [setIvWord]
@[simp] theorem setIvWord_errcode (k : Nat) (v : Word) (s : State) : (s.setIvWord k v).errcode = s.errcode := by
  simp only [setIvWord]
@[simp] theorem setIvWord_errflags (k : Nat) (v : Word) (s : State) : (s.setIvWord k v).errflags = s.errflags := by
  simp only [setIvWord]
@[simp] theorem setIvWord_intEn (k : Nat) (v : Word) (s : State) : (s.setIvWord k v).intEn = s.intEn := by
  simp only [setIvWord]
@[simp] theorem setIvWord_intStatus (k : Nat) (v : Word) (s : State) : (s.setIvWord k v).intStatus = s.intStatus := by
  simp only [setIvWord]
@[simp] theorem setIvWord_key (k : Nat) (v : Word) (s : State) : (s.setIvWord k v).key = s.key := by
  simp only [setIvWord]
@[simp] theorem setIvWord_iv (k : Nat) (v : Word) (s : State) : (s.setIvWord k v).iv = setWord s.iv k v := by
  simp only [setIvWord]
@[simp] theorem setIvWord_din (k : Nat) (v : Word) (s : State) : (s.setIvWord k v).din = s.din := by
  simp only [setIvWord]
@[simp] theorem setIvWord_dout (k : Nat) (v : Word) (s : State) : (s.setIvWord k v).dout = s.dout := by
  simp only [setIvWord]
@[simp] theorem setIvWord_doutLen (k : Nat) (v : Word) (s : State) : (s.setIvWord k v).doutLen = s.doutLen := by
  simp only [setIvWord]
@[simp] theorem setIvWord_hcount (k : Nat) (v : Word) (s : State) : (s.setIvWord k v).hcount = s.hcount := by
  simp only [setIvWord]
@[simp] theorem setIvWord_ck (k : Nat) (v : Word) (s : State) : (s.setIvWord k v).ck = s.ck := by
  simp only [setIvWord]
@[simp] theorem setIvWord_exp (k : Nat) (v : Word) (s : State) : (s.setIvWord k v).exp = s.exp := by
  simp only [setIvWord]
@[simp] theorem setIvWord_expLen (k : Nat) (v : Word) (s : State) : (s.setIvWord k v).expLen = s.expLen := by
  simp only [setIvWord]
@[simp] theorem setIvWord_digest (k : Nat) (v : Word) (s : State) : (s.setIvWord k v).digest = s.digest := by
  simp only [setIvWord]
@[simp] theorem setIvWord_chain (k : Nat) (v : Word) (s : State) : (s.setIvWord k v).chain = s.chain := by
  simp only [setIvWord]
@[simp] theorem setIvWord_lKey (k : Nat) (v : Word) (s : State) : (s.setIvWord k v).lKey = s.lKey := by
  simp only [setIvWord]
@[simp] theorem setIvWord_lIv (k : Nat) (v : Word) (s : State) : (s.setIvWord k v).lIv = s.lIv := by
  simp only [setIvWord]
@[simp] theorem setIvWord_lDin (k : Nat) (v : Word) (s : State) : (s.setIvWord k v).lDin = s.lDin := by
  simp only [setIvWord]
@[simp] theorem setIvWord_lCk (k : Nat) (v : Word) (s : State) : (s.setIvWord k v).lCk = s.lCk := by
  simp only [setIvWord]
@[simp] theorem setIvWord_hstate (k : Nat) (v : Word) (s : State) : (s.setIvWord k v).hstate = s.hstate := by
  simp only [setIvWord]
@[simp] theorem setIvWord_hbuf (k : Nat) (v : Word) (s : State) : (s.setIvWord k v).hbuf = s.hbuf := by
  simp only [setIvWord]
@[simp] theorem setIvWord_host (k : Nat) (v : Word) (s : State) : (s.setIvWord k v).host = s.host := by
  simp only [setIvWord]
@[simp] theorem setIvWord_schedule (k : Nat) (v : Word) (s : State) : (s.setIvWord k v).schedule = s.schedule := by
  simp only [setIvWord]

/-! ### `setDinWord` -/

@[simp] theorem setDinWord_hashAlg (k : Nat) (v : Word) (s : State) : (s.setDinWord k v).hashAlg = s.hashAlg := by
  simp only [setDinWord]
@[simp] theorem setDinWord_busy (k : Nat) (v : Word) (s : State) : (s.setDinWord k v).busy = s.busy := by
  simp only [setDinWord]
@[simp] theorem setDinWord_sstate (k : Nat) (v : Word) (s : State) : (s.setDinWord k v).sstate = s.sstate := by
  simp only [setDinWord]
@[simp] theorem setDinWord_ckstate (k : Nat) (v : Word) (s : State) : (s.setDinWord k v).ckstate = s.ckstate := by
  simp only [setDinWord]
@[simp] theorem setDinWord_cmpValid (k : Nat) (v : Word) (s : State) : (s.setDinWord k v).cmpValid = s.cmpValid := by
  simp only [setDinWord]
@[simp] theorem setDinWord_matchBit (k : Nat) (v : Word) (s : State) : (s.setDinWord k v).matchBit = s.matchBit := by
  simp only [setDinWord]
@[simp] theorem setDinWord_pend (k : Nat) (v : Word) (s : State) : (s.setDinWord k v).pend = s.pend := by
  simp only [setDinWord]
@[simp] theorem setDinWord_errcode (k : Nat) (v : Word) (s : State) : (s.setDinWord k v).errcode = s.errcode := by
  simp only [setDinWord]
@[simp] theorem setDinWord_errflags (k : Nat) (v : Word) (s : State) : (s.setDinWord k v).errflags = s.errflags := by
  simp only [setDinWord]
@[simp] theorem setDinWord_intEn (k : Nat) (v : Word) (s : State) : (s.setDinWord k v).intEn = s.intEn := by
  simp only [setDinWord]
@[simp] theorem setDinWord_intStatus (k : Nat) (v : Word) (s : State) : (s.setDinWord k v).intStatus = s.intStatus := by
  simp only [setDinWord]
@[simp] theorem setDinWord_key (k : Nat) (v : Word) (s : State) : (s.setDinWord k v).key = s.key := by
  simp only [setDinWord]
@[simp] theorem setDinWord_iv (k : Nat) (v : Word) (s : State) : (s.setDinWord k v).iv = s.iv := by
  simp only [setDinWord]
@[simp] theorem setDinWord_din (k : Nat) (v : Word) (s : State) : (s.setDinWord k v).din = setWord s.din k v := by
  simp only [setDinWord]
@[simp] theorem setDinWord_dout (k : Nat) (v : Word) (s : State) : (s.setDinWord k v).dout = s.dout := by
  simp only [setDinWord]
@[simp] theorem setDinWord_doutLen (k : Nat) (v : Word) (s : State) : (s.setDinWord k v).doutLen = s.doutLen := by
  simp only [setDinWord]
@[simp] theorem setDinWord_hcount (k : Nat) (v : Word) (s : State) : (s.setDinWord k v).hcount = s.hcount := by
  simp only [setDinWord]
@[simp] theorem setDinWord_ck (k : Nat) (v : Word) (s : State) : (s.setDinWord k v).ck = s.ck := by
  simp only [setDinWord]
@[simp] theorem setDinWord_exp (k : Nat) (v : Word) (s : State) : (s.setDinWord k v).exp = s.exp := by
  simp only [setDinWord]
@[simp] theorem setDinWord_expLen (k : Nat) (v : Word) (s : State) : (s.setDinWord k v).expLen = s.expLen := by
  simp only [setDinWord]
@[simp] theorem setDinWord_digest (k : Nat) (v : Word) (s : State) : (s.setDinWord k v).digest = s.digest := by
  simp only [setDinWord]
@[simp] theorem setDinWord_chain (k : Nat) (v : Word) (s : State) : (s.setDinWord k v).chain = s.chain := by
  simp only [setDinWord]
@[simp] theorem setDinWord_lKey (k : Nat) (v : Word) (s : State) : (s.setDinWord k v).lKey = s.lKey := by
  simp only [setDinWord]
@[simp] theorem setDinWord_lIv (k : Nat) (v : Word) (s : State) : (s.setDinWord k v).lIv = s.lIv := by
  simp only [setDinWord]
@[simp] theorem setDinWord_lDin (k : Nat) (v : Word) (s : State) : (s.setDinWord k v).lDin = s.lDin := by
  simp only [setDinWord]
@[simp] theorem setDinWord_lCk (k : Nat) (v : Word) (s : State) : (s.setDinWord k v).lCk = s.lCk := by
  simp only [setDinWord]
@[simp] theorem setDinWord_hstate (k : Nat) (v : Word) (s : State) : (s.setDinWord k v).hstate = s.hstate := by
  simp only [setDinWord]
@[simp] theorem setDinWord_hbuf (k : Nat) (v : Word) (s : State) : (s.setDinWord k v).hbuf = s.hbuf := by
  simp only [setDinWord]
@[simp] theorem setDinWord_host (k : Nat) (v : Word) (s : State) : (s.setDinWord k v).host = s.host := by
  simp only [setDinWord]
@[simp] theorem setDinWord_schedule (k : Nat) (v : Word) (s : State) : (s.setDinWord k v).schedule = s.schedule := by
  simp only [setDinWord]

/-! ### `setCkWord` -/

@[simp] theorem setCkWord_hashAlg (k : Nat) (v : Word) (s : State) : (s.setCkWord k v).hashAlg = s.hashAlg := by
  simp only [setCkWord]
@[simp] theorem setCkWord_busy (k : Nat) (v : Word) (s : State) : (s.setCkWord k v).busy = s.busy := by
  simp only [setCkWord]
@[simp] theorem setCkWord_sstate (k : Nat) (v : Word) (s : State) : (s.setCkWord k v).sstate = s.sstate := by
  simp only [setCkWord]
@[simp] theorem setCkWord_ckstate (k : Nat) (v : Word) (s : State) : (s.setCkWord k v).ckstate = s.ckstate := by
  simp only [setCkWord]
@[simp] theorem setCkWord_cmpValid (k : Nat) (v : Word) (s : State) : (s.setCkWord k v).cmpValid = s.cmpValid := by
  simp only [setCkWord]
@[simp] theorem setCkWord_matchBit (k : Nat) (v : Word) (s : State) : (s.setCkWord k v).matchBit = s.matchBit := by
  simp only [setCkWord]
@[simp] theorem setCkWord_pend (k : Nat) (v : Word) (s : State) : (s.setCkWord k v).pend = s.pend := by
  simp only [setCkWord]
@[simp] theorem setCkWord_errcode (k : Nat) (v : Word) (s : State) : (s.setCkWord k v).errcode = s.errcode := by
  simp only [setCkWord]
@[simp] theorem setCkWord_errflags (k : Nat) (v : Word) (s : State) : (s.setCkWord k v).errflags = s.errflags := by
  simp only [setCkWord]
@[simp] theorem setCkWord_intEn (k : Nat) (v : Word) (s : State) : (s.setCkWord k v).intEn = s.intEn := by
  simp only [setCkWord]
@[simp] theorem setCkWord_intStatus (k : Nat) (v : Word) (s : State) : (s.setCkWord k v).intStatus = s.intStatus := by
  simp only [setCkWord]
@[simp] theorem setCkWord_key (k : Nat) (v : Word) (s : State) : (s.setCkWord k v).key = s.key := by
  simp only [setCkWord]
@[simp] theorem setCkWord_iv (k : Nat) (v : Word) (s : State) : (s.setCkWord k v).iv = s.iv := by
  simp only [setCkWord]
@[simp] theorem setCkWord_din (k : Nat) (v : Word) (s : State) : (s.setCkWord k v).din = s.din := by
  simp only [setCkWord]
@[simp] theorem setCkWord_dout (k : Nat) (v : Word) (s : State) : (s.setCkWord k v).dout = s.dout := by
  simp only [setCkWord]
@[simp] theorem setCkWord_doutLen (k : Nat) (v : Word) (s : State) : (s.setCkWord k v).doutLen = s.doutLen := by
  simp only [setCkWord]
@[simp] theorem setCkWord_hcount (k : Nat) (v : Word) (s : State) : (s.setCkWord k v).hcount = s.hcount := by
  simp only [setCkWord]
@[simp] theorem setCkWord_ck (k : Nat) (v : Word) (s : State) : (s.setCkWord k v).ck = setWord s.ck k v := by
  simp only [setCkWord]
@[simp] theorem setCkWord_exp (k : Nat) (v : Word) (s : State) : (s.setCkWord k v).exp = s.exp := by
  simp only [setCkWord]
@[simp] theorem setCkWord_expLen (k : Nat) (v : Word) (s : State) : (s.setCkWord k v).expLen = s.expLen := by
  simp only [setCkWord]
@[simp] theorem setCkWord_digest (k : Nat) (v : Word) (s : State) : (s.setCkWord k v).digest = s.digest := by
  simp only [setCkWord]
@[simp] theorem setCkWord_chain (k : Nat) (v : Word) (s : State) : (s.setCkWord k v).chain = s.chain := by
  simp only [setCkWord]
@[simp] theorem setCkWord_lKey (k : Nat) (v : Word) (s : State) : (s.setCkWord k v).lKey = s.lKey := by
  simp only [setCkWord]
@[simp] theorem setCkWord_lIv (k : Nat) (v : Word) (s : State) : (s.setCkWord k v).lIv = s.lIv := by
  simp only [setCkWord]
@[simp] theorem setCkWord_lDin (k : Nat) (v : Word) (s : State) : (s.setCkWord k v).lDin = s.lDin := by
  simp only [setCkWord]
@[simp] theorem setCkWord_lCk (k : Nat) (v : Word) (s : State) : (s.setCkWord k v).lCk = s.lCk := by
  simp only [setCkWord]
@[simp] theorem setCkWord_hstate (k : Nat) (v : Word) (s : State) : (s.setCkWord k v).hstate = s.hstate := by
  simp only [setCkWord]
@[simp] theorem setCkWord_hbuf (k : Nat) (v : Word) (s : State) : (s.setCkWord k v).hbuf = s.hbuf := by
  simp only [setCkWord]
@[simp] theorem setCkWord_host (k : Nat) (v : Word) (s : State) : (s.setCkWord k v).host = s.host := by
  simp only [setCkWord]
@[simp] theorem setCkWord_schedule (k : Nat) (v : Word) (s : State) : (s.setCkWord k v).schedule = s.schedule := by
  simp only [setCkWord]

/-! ### `onHost` -/

@[simp] theorem onHost_hashAlg (f : HostAgent → HostAgent) (s : State) : (s.onHost f).hashAlg = s.hashAlg := by
  simp only [onHost]
@[simp] theorem onHost_busy (f : HostAgent → HostAgent) (s : State) : (s.onHost f).busy = s.busy := by
  simp only [onHost]
@[simp] theorem onHost_sstate (f : HostAgent → HostAgent) (s : State) : (s.onHost f).sstate = s.sstate := by
  simp only [onHost]
@[simp] theorem onHost_ckstate (f : HostAgent → HostAgent) (s : State) : (s.onHost f).ckstate = s.ckstate := by
  simp only [onHost]
@[simp] theorem onHost_cmpValid (f : HostAgent → HostAgent) (s : State) : (s.onHost f).cmpValid = s.cmpValid := by
  simp only [onHost]
@[simp] theorem onHost_matchBit (f : HostAgent → HostAgent) (s : State) : (s.onHost f).matchBit = s.matchBit := by
  simp only [onHost]
@[simp] theorem onHost_pend (f : HostAgent → HostAgent) (s : State) : (s.onHost f).pend = s.pend := by
  simp only [onHost]
@[simp] theorem onHost_errcode (f : HostAgent → HostAgent) (s : State) : (s.onHost f).errcode = s.errcode := by
  simp only [onHost]
@[simp] theorem onHost_errflags (f : HostAgent → HostAgent) (s : State) : (s.onHost f).errflags = s.errflags := by
  simp only [onHost]
@[simp] theorem onHost_intEn (f : HostAgent → HostAgent) (s : State) : (s.onHost f).intEn = s.intEn := by
  simp only [onHost]
@[simp] theorem onHost_intStatus (f : HostAgent → HostAgent) (s : State) : (s.onHost f).intStatus = s.intStatus := by
  simp only [onHost]
@[simp] theorem onHost_key (f : HostAgent → HostAgent) (s : State) : (s.onHost f).key = s.key := by
  simp only [onHost]
@[simp] theorem onHost_iv (f : HostAgent → HostAgent) (s : State) : (s.onHost f).iv = s.iv := by
  simp only [onHost]
@[simp] theorem onHost_din (f : HostAgent → HostAgent) (s : State) : (s.onHost f).din = s.din := by
  simp only [onHost]
@[simp] theorem onHost_dout (f : HostAgent → HostAgent) (s : State) : (s.onHost f).dout = s.dout := by
  simp only [onHost]
@[simp] theorem onHost_doutLen (f : HostAgent → HostAgent) (s : State) : (s.onHost f).doutLen = s.doutLen := by
  simp only [onHost]
@[simp] theorem onHost_hcount (f : HostAgent → HostAgent) (s : State) : (s.onHost f).hcount = s.hcount := by
  simp only [onHost]
@[simp] theorem onHost_ck (f : HostAgent → HostAgent) (s : State) : (s.onHost f).ck = s.ck := by
  simp only [onHost]
@[simp] theorem onHost_exp (f : HostAgent → HostAgent) (s : State) : (s.onHost f).exp = s.exp := by
  simp only [onHost]
@[simp] theorem onHost_expLen (f : HostAgent → HostAgent) (s : State) : (s.onHost f).expLen = s.expLen := by
  simp only [onHost]
@[simp] theorem onHost_digest (f : HostAgent → HostAgent) (s : State) : (s.onHost f).digest = s.digest := by
  simp only [onHost]
@[simp] theorem onHost_chain (f : HostAgent → HostAgent) (s : State) : (s.onHost f).chain = s.chain := by
  simp only [onHost]
@[simp] theorem onHost_lKey (f : HostAgent → HostAgent) (s : State) : (s.onHost f).lKey = s.lKey := by
  simp only [onHost]
@[simp] theorem onHost_lIv (f : HostAgent → HostAgent) (s : State) : (s.onHost f).lIv = s.lIv := by
  simp only [onHost]
@[simp] theorem onHost_lDin (f : HostAgent → HostAgent) (s : State) : (s.onHost f).lDin = s.lDin := by
  simp only [onHost]
@[simp] theorem onHost_lCk (f : HostAgent → HostAgent) (s : State) : (s.onHost f).lCk = s.lCk := by
  simp only [onHost]
@[simp] theorem onHost_hstate (f : HostAgent → HostAgent) (s : State) : (s.onHost f).hstate = s.hstate := by
  simp only [onHost]
@[simp] theorem onHost_hbuf (f : HostAgent → HostAgent) (s : State) : (s.onHost f).hbuf = s.hbuf := by
  simp only [onHost]
@[simp] theorem onHost_host (f : HostAgent → HostAgent) (s : State) : (s.onHost f).host = f s.host := by
  simp only [onHost]
@[simp] theorem onHost_schedule (f : HostAgent → HostAgent) (s : State) : (s.onHost f).schedule = s.schedule := by
  simp only [onHost]

/-! ### `popSchedule` -/

@[simp] theorem popSchedule_hashAlg (s : State) : (s.popSchedule).hashAlg = s.hashAlg := by
  simp only [popSchedule]
@[simp] theorem popSchedule_busy (s : State) : (s.popSchedule).busy = s.busy := by
  simp only [popSchedule]
@[simp] theorem popSchedule_sstate (s : State) : (s.popSchedule).sstate = s.sstate := by
  simp only [popSchedule]
@[simp] theorem popSchedule_ckstate (s : State) : (s.popSchedule).ckstate = s.ckstate := by
  simp only [popSchedule]
@[simp] theorem popSchedule_cmpValid (s : State) : (s.popSchedule).cmpValid = s.cmpValid := by
  simp only [popSchedule]
@[simp] theorem popSchedule_matchBit (s : State) : (s.popSchedule).matchBit = s.matchBit := by
  simp only [popSchedule]
@[simp] theorem popSchedule_pend (s : State) : (s.popSchedule).pend = s.pend := by
  simp only [popSchedule]
@[simp] theorem popSchedule_errcode (s : State) : (s.popSchedule).errcode = s.errcode := by
  simp only [popSchedule]
@[simp] theorem popSchedule_errflags (s : State) : (s.popSchedule).errflags = s.errflags := by
  simp only [popSchedule]
@[simp] theorem popSchedule_intEn (s : State) : (s.popSchedule).intEn = s.intEn := by
  simp only [popSchedule]
@[simp] theorem popSchedule_intStatus (s : State) : (s.popSchedule).intStatus = s.intStatus := by
  simp only [popSchedule]
@[simp] theorem popSchedule_key (s : State) : (s.popSchedule).key = s.key := by
  simp only [popSchedule]
@[simp] theorem popSchedule_iv (s : State) : (s.popSchedule).iv = s.iv := by
  simp only [popSchedule]
@[simp] theorem popSchedule_din (s : State) : (s.popSchedule).din = s.din := by
  simp only [popSchedule]
@[simp] theorem popSchedule_dout (s : State) : (s.popSchedule).dout = s.dout := by
  simp only [popSchedule]
@[simp] theorem popSchedule_doutLen (s : State) : (s.popSchedule).doutLen = s.doutLen := by
  simp only [popSchedule]
@[simp] theorem popSchedule_hcount (s : State) : (s.popSchedule).hcount = s.hcount := by
  simp only [popSchedule]
@[simp] theorem popSchedule_ck (s : State) : (s.popSchedule).ck = s.ck := by
  simp only [popSchedule]
@[simp] theorem popSchedule_exp (s : State) : (s.popSchedule).exp = s.exp := by
  simp only [popSchedule]
@[simp] theorem popSchedule_expLen (s : State) : (s.popSchedule).expLen = s.expLen := by
  simp only [popSchedule]
@[simp] theorem popSchedule_digest (s : State) : (s.popSchedule).digest = s.digest := by
  simp only [popSchedule]
@[simp] theorem popSchedule_chain (s : State) : (s.popSchedule).chain = s.chain := by
  simp only [popSchedule]
@[simp] theorem popSchedule_lKey (s : State) : (s.popSchedule).lKey = s.lKey := by
  simp only [popSchedule]
@[simp] theorem popSchedule_lIv (s : State) : (s.popSchedule).lIv = s.lIv := by
  simp only [popSchedule]
@[simp] theorem popSchedule_lDin (s : State) : (s.popSchedule).lDin = s.lDin := by
  simp only [popSchedule]
@[simp] theorem popSchedule_lCk (s : State) : (s.popSchedule).lCk = s.lCk := by
  simp only [popSchedule]
@[simp] theorem popSchedule_hstate (s : State) : (s.popSchedule).hstate = s.hstate := by
  simp only [popSchedule]
@[simp] theorem popSchedule_hbuf (s : State) : (s.popSchedule).hbuf = s.hbuf := by
  simp only [popSchedule]
@[simp] theorem popSchedule_host (s : State) : (s.popSchedule).host = s.host := by
  simp only [popSchedule]
@[simp] theorem popSchedule_schedule (s : State) : (s.popSchedule).schedule = s.schedule.tail := by
  simp only [popSchedule]

/-! ### `softReset` -/

@[simp] theorem softReset_hashAlg (s : State) : (s.softReset).hashAlg = s.hashAlg := by
  simp only [softReset, resetOf]
@[simp] theorem softReset_busy (s : State) : (s.softReset).busy = false := by
  simp only [softReset, resetOf]
@[simp] theorem softReset_sstate (s : State) : (s.softReset).sstate = .idle := by
  simp only [softReset, resetOf]
@[simp] theorem softReset_ckstate (s : State) : (s.softReset).ckstate = .empty := by
  simp only [softReset, resetOf]
@[simp] theorem softReset_cmpValid (s : State) : (s.softReset).cmpValid = false := by
  simp only [softReset, resetOf]
@[simp] theorem softReset_matchBit (s : State) : (s.softReset).matchBit = false := by
  simp only [softReset, resetOf]
@[simp] theorem softReset_pend (s : State) : (s.softReset).pend = none := by
  simp only [softReset, resetOf]
@[simp] theorem softReset_errcode (s : State) : (s.softReset).errcode = none := by
  simp only [softReset, resetOf]
@[simp] theorem softReset_errflags (s : State) : (s.softReset).errflags = 0 := by
  simp only [softReset, resetOf]
@[simp] theorem softReset_intEn (s : State) : (s.softReset).intEn = 0 := by
  simp only [softReset, resetOf]
@[simp] theorem softReset_intStatus (s : State) : (s.softReset).intStatus = 0 := by
  simp only [softReset, resetOf]
@[simp] theorem softReset_key (s : State) : (s.softReset).key = zeros 32 := by
  simp only [softReset, resetOf]
@[simp] theorem softReset_iv (s : State) : (s.softReset).iv = zeros 16 := by
  simp only [softReset, resetOf]
@[simp] theorem softReset_din (s : State) : (s.softReset).din = zeros 16 := by
  simp only [softReset, resetOf]
@[simp] theorem softReset_dout (s : State) : (s.softReset).dout = zeros 16 := by
  simp only [softReset, resetOf]
@[simp] theorem softReset_doutLen (s : State) : (s.softReset).doutLen = 0 := by
  simp only [softReset, resetOf]
@[simp] theorem softReset_hcount (s : State) : (s.softReset).hcount = 0 := by
  simp only [softReset, resetOf]
@[simp] theorem softReset_ck (s : State) : (s.softReset).ck = zeros 32 := by
  simp only [softReset, resetOf]
@[simp] theorem softReset_exp (s : State) : (s.softReset).exp = zeros 32 := by
  simp only [softReset, resetOf]
@[simp] theorem softReset_expLen (s : State) : (s.softReset).expLen = 0 := by
  simp only [softReset, resetOf]
@[simp] theorem softReset_digest (s : State) : (s.softReset).digest = zeros 32 := by
  simp only [softReset, resetOf]
@[simp] theorem softReset_chain (s : State) : (s.softReset).chain = zeros 16 := by
  simp only [softReset, resetOf]
@[simp] theorem softReset_lKey (s : State) : (s.softReset).lKey = zeros 32 := by
  simp only [softReset, resetOf]
@[simp] theorem softReset_lIv (s : State) : (s.softReset).lIv = zeros 16 := by
  simp only [softReset, resetOf]
@[simp] theorem softReset_lDin (s : State) : (s.softReset).lDin = zeros 16 := by
  simp only [softReset, resetOf]
@[simp] theorem softReset_lCk (s : State) : (s.softReset).lCk = zeros 32 := by
  simp only [softReset, resetOf]
@[simp] theorem softReset_hstate (s : State) : (s.softReset).hstate = hashInit s.hashAlg := by
  simp only [softReset, resetOf]
@[simp] theorem softReset_hbuf (s : State) : (s.softReset).hbuf = [] := by
  simp only [softReset, resetOf]
@[simp] theorem softReset_host (s : State) : (s.softReset).host = s.host := by
  simp only [softReset, resetOf]
@[simp] theorem softReset_schedule (s : State) : (s.softReset).schedule = s.schedule := by
  simp only [softReset, resetOf]

end Sys2Proof.Machine.State
end

