-- ==== Sys2Proof/Laws/Ops.lean ====
section
/-! SUPPORT. What each shared operation can do, said once. -/

namespace Sys2Proof.Machine

/-! ### Issue and completion -/

/-- Everything the issue of a command can do (R202, R206). -/
theorem issueCommand_cases (c : LongCommand) (s : State) :
    (s.busy = true ∧ s.issueCommand c = s.recordError .busy) ∨
    (s.busy = false ∧ s.legal c = true ∧ s.issueCommand c = s.issue c) ∨
    (s.busy = false ∧ s.legal c = false ∧ s.issueCommand c = s.recordError .sequence) := by
  unfold State.issueCommand
  cases hb : s.busy <;> cases hl : s.legal c <;> simp

/-- Everything the engine's step can do (R207). -/
theorem complete_cases (s : State) :
    (s.busy = false ∧ complete s = s) ∨
    (s.busy = true ∧ s.pend = none ∧ complete s = s.finishCompletion) ∨
    (∃ c, s.busy = true ∧ s.pend = some c ∧ complete s = (effect c s).finishCompletion) := by
  unfold complete effectPending
  cases hb : s.busy with
  | false => exact .inl ⟨rfl, by simp⟩
  | true =>
    cases hp : s.pend with
    | none => exact .inr (.inl ⟨rfl, rfl, by simp⟩)
    | some c => exact .inr (.inr ⟨c, rfl, rfl, by simp⟩)

theorem effectDecryptFinal_cases (s : State) :
    (pkcs7Ok s.streamPlain = true ∧
      effectDecryptFinal s = finalGood (s.streamPlain.toList.take (pkcs7Len s.streamPlain)) s) ∨
    (pkcs7Ok s.streamPlain = false ∧ effectDecryptFinal s = finalBad s) := by
  unfold effectDecryptFinal
  cases h : pkcs7Ok s.streamPlain <;> simp

theorem effectCkDecrypt_cases (s : State) :
    (pkcs7Ok s.checksumSecond = true ∧ effectCkDecrypt s = checksumGood (padLen s.checksumSecond) s) ∨
    (pkcs7Ok s.checksumSecond = false ∧ effectCkDecrypt s = checksumBad s) := by
  unfold effectCkDecrypt
  cases h : pkcs7Ok s.checksumSecond <;> simp

/-- Each command's write answers a next state, the one its rule gives (R202). -/
theorem exec_nop (s : State) : exec .nop s = .next s := by rw [exec, execNop]

theorem exec_softReset (s : State) : exec .softReset s = .next s.softReset := by rw [exec, execSoftReset]

theorem exec_errClear (s : State) : exec .errClear s = .next s.clearErrors := by rw [exec, execErrClear]

/-- The five commands that set `BUSY` go through the issue checks (R202). -/
theorem exec_longCommand (c : LongCommand) (s : State) : exec c.instr s = .next (s.issueCommand c) := by
  cases c <;> simp only [LongCommand.instr, exec, execInitStream, execDecryptBlock, execDecryptFinal, execCkDecrypt,
    execCompare]

/-! ### The hash functions -/

/-- A shifted variable: the first is the new one, every other the one before it. -/
@[simp] theorem getElem_shiftIn {w n : Nat} (x : BitVec w) (v : Vector (BitVec w) n) (i : Nat) (h : i < n) :
    (shiftIn x v)[i] = if i = 0 then x else v[i - 1] := by
  simp [shiftIn]

@[simp] theorem getElem_addWords {w n : Nat} (h v : Vector (BitVec w) n) (i : Nat) (hi : i < n) :
    (addWords h v)[i] = h[i] + v[i] := by
  simp [addWords]

@[simp] theorem getElem_printedRow (w n row i : Nat) (h : i < n) : (printedRow w n row)[i] = printedWord w n row i := by
  simp [printedRow]

/-- A printed table has `n` words in each row. -/
theorem printedTable_length (w n : Nat) (rows : List Nat) : (printedTable w n rows).length = n * rows.length := by
  induction rows with
  | nil => rfl
  | cons r rs ih =>
    rw [printedTable, List.flatMap_cons, List.length_append]
    have : (rs.flatMap fun row => (List.range n).map (printedWord w n row)).length = n * rs.length := ih
    rw [this, List.length_map, List.length_range, List.length_cons, Nat.mul_succ, Nat.add_comm]

/-! ### The hash accumulator -/

theorem compress_alg (b : List Byte) (h : HashState) : (h.compress b).alg = h.alg := by
  cases h <;> rfl

theorem foldBlocks_alg (len n : Nat) (b : List Byte) (h : HashState) :
    (foldBlocks HashState.compress len n b h).alg = h.alg := by
  induction n generalizing b h with
  | zero => rfl
  | succ n ih => rw [foldBlocks, ih, compress_alg]

theorem hashInit_alg (a : HashAlg) : (hashInit a).alg = a := by
  cases a <;> rfl

/-- `HBUF` holds what is left of the bytes after whole blocks (R333). -/
theorem absorb_hbuf_length (m : List Byte) (s : State) :
    (s.absorb m).hbuf.length = (s.hbuf.length + m.length) % 64 := by
  rw [State.absorb_hbuf, List.length_drop, List.length_append]
  omega

theorem wordBytes_length {w : Nat} (n : Nat) (x : BitVec w) : (wordBytes n x).length = n := by
  simp [wordBytes]

/-- A digest has the length of its algorithm (R427, R436). -/
theorem digest_length (h : HashState) : h.digest.length = h.alg.hashLen := by
  cases h with
  | sha1 h =>
    simp [HashState.digest, HashState.alg, HashAlg.hashLen, List.length_flatMap, wordBytes_length]
  | sha256 h =>
    simp [HashState.digest, HashState.alg, HashAlg.hashLen, List.length_flatMap, wordBytes_length]

theorem finalize_length (s : State) : s.finalize.length = s.hstate.alg.hashLen := by
  rw [State.finalize, digest_length, foldBlocks_alg]

end Sys2Proof.Machine
end

