-- ==== Sys2Proof/WellFormed.lean ====
section
/-! DEFINITION. Well-formedness of what the host can ask of the engine: commands, bus transactions and programs. -/

namespace Sys2Proof

/-- Every command is well formed: R140 gives a command no operand field that could be out of range. -/
def Instr.wellFormed : Instr → Bool
  | .nop => true
  | .softReset => true
  | .initStream => true
  | .decryptBlock => true
  | .decryptFinal => true
  | .ckDecrypt => true
  | .compare => true
  | .errClear => true

namespace Machine

/-- The labels a program defines, in order. -/
def definedLabels : List Stmt → List Label
  | [] => []
  | .label l :: rest => l :: definedLabels rest
  | _ :: rest => definedLabels rest

/-- The labels a program's `BNZ` statements continue at, in order. -/
def usedLabels : List Stmt → List Label
  | [] => []
  | .bnz _ _ l :: rest => l :: usedLabels rest
  | _ :: rest => usedLabels rest

/-- No label is defined twice: a label names one statement (R150). -/
def labelsUnique (p : List Stmt) : Bool := decide (definedLabels p).Nodup

/-- Every `BNZ` target is a label of the same program (R218). -/
def labelsDefined (p : List Stmt) : Bool := (usedLabels p).all fun l => (definedLabels p).contains l

/-- Every transaction of the program has the one legal size and alignment (R104, R108). -/
def accessesAligned (p : List Stmt) : Bool :=
  p.all fun
    | .bus b => b.aligned
    | _ => true

/-- A host program that never takes a bus error and never jumps to nowhere. -/
def programWellFormed (p : List Stmt) : Bool :=
  labelsUnique p && labelsDefined p && accessesAligned p

end Machine

end Sys2Proof
end

