-- ==== Sys2Proof/Laws/PerInstr.lean ====
section
/-! SUPPORT. Statements made of each command apart. -/

namespace Sys2Proof.Laws

/-- The command is well formed, and its word has zero `MBZ` bits, an assigned opcode, and is read back by the table's
decoder from the 8 bits that can differ and from all 32 (R140, R141). -/
def EncodingFixed.Statement (i : Instr) : Prop :=
  i.wellFormed = true ∧ mbzField (encode i) = 0 ∧ (opcodeField (encode i)).toNat < 8 ∧
    decodeTableWord 8 (encode i).toNat = some i ∧ decodeTableWord 32 (encode i).toNat = some i

theorem EncodingFixed.nop : EncodingFixed.Statement .nop := by unfold EncodingFixed.Statement; decide

theorem EncodingFixed.softReset : EncodingFixed.Statement .softReset := by unfold EncodingFixed.Statement; decide

theorem EncodingFixed.initStream : EncodingFixed.Statement .initStream := by unfold EncodingFixed.Statement; decide

theorem EncodingFixed.decryptBlock : EncodingFixed.Statement .decryptBlock := by unfold EncodingFixed.Statement; decide

theorem EncodingFixed.decryptFinal : EncodingFixed.Statement .decryptFinal := by unfold EncodingFixed.Statement; decide

theorem EncodingFixed.ckDecrypt : EncodingFixed.Statement .ckDecrypt := by unfold EncodingFixed.Statement; decide

theorem EncodingFixed.compare : EncodingFixed.Statement .compare := by unfold EncodingFixed.Statement; decide

theorem EncodingFixed.errClear : EncodingFixed.Statement .errClear := by unfold EncodingFixed.Statement; decide

end Sys2Proof.Laws
end

