-- ==== Sys2Proof/Laws/Step.lean ====
section
/-! SUPPORT. What a bus write, a host statement and a step can do, said once. -/

namespace Sys2Proof.Machine

/-- A word that decodes to no command records `ILLEGAL_CMD`; the others are handled by `exec` (R202). -/
theorem dispatchCommand_cases (w : Word) (s : State) :
    (∃ i, decode w = .ok i ∧ dispatchCommand w s = exec i s) ∨
    (∃ e, decode w = .error e ∧ dispatchCommand w s = .next (s.recordError .illegalCmd)) := by
  unfold dispatchCommand
  cases h : decode w with
  | ok i => exact .inl ⟨i, rfl, by simp⟩
  | error e => exact .inr ⟨e, rfl, by simp⟩

theorem lockChecked_cases (f : State → State) (s : State) :
    (s.locked = true ∧ lockChecked f s = s.recordError .locked) ∨ (s.locked = false ∧ lockChecked f s = f s) := by
  unfold lockChecked
  cases s.locked <;> simp

/-- Everything a write at an offset can do (R210). -/
theorem writeOffset_cases (off : BitVec 12) (v : Word) (s : State) :
    writeOffset off v s = .next s ∨
    (regAt off = some .cmd ∧ writeOffset off v s = dispatchCommand v s) ∨
    (regAt off = some .intEn ∧ writeOffset off v s = .next (s.setIntEn v)) ∨
    (regAt off = some .intStatus ∧ writeOffset off v s = .next (s.ackInterrupts v)) ∨
    (∃ k, regAt off = some (.key k) ∧ writeOffset off v s = .next (lockChecked (State.setKeyWord k.val v) s)) ∨
    (∃ k, regAt off = some (.iv k) ∧ writeOffset off v s = .next (lockChecked (State.setIvWord k.val v) s)) ∨
    (∃ k, regAt off = some (.din k) ∧ writeOffset off v s = .next (s.setDinWord k.val v)) ∨
    (∃ k, regAt off = some (.ck k) ∧ writeOffset off v s = .next (s.setCkWord k.val v)) := by
  unfold writeOffset
  cases h : regAt off with
  | none => exact .inl rfl
  | some r => cases r <;> simp [writeRegister]

/-- A host that makes no write changes nothing but itself; a write does what `writeOffset` does (R110, R150). -/
theorem hostStep_cases (s t : State) (h : hostStep s = .next t) :
    (∃ f, t = s.onHost f) ∨
    (∃ off v, s.host.nextStmt = some (.bus (.write off .four v)) ∧ off.toNat % 4 = 0 ∧
      writeOffset off v (s.onHost .advance) = .next t) := by
  unfold hostStep at h
  cases hn : s.host.nextStmt with
  | none =>
    rw [hn] at h
    exact .inl ⟨id, by simpa [State.onHost] using h.symm⟩
  | some st =>
    rw [hn] at h
    have two : ∀ f g : HostAgent → HostAgent, (s.onHost f).onHost g = s.onHost (g ∘ f) := fun _ _ => rfl
    cases st with
    | bus b =>
      cases b with
      | read off size =>
        simp only [performStmt] at h
        split at h
        · injection h with h
          exact .inl ⟨_, by rw [← h, two]⟩
        · cases h
      | write off size v =>
        simp only [performStmt, performBus] at h
        split at h
        next ha =>
          simp only [BusOp.aligned, BusOp.size, BusOp.offset, Bool.and_eq_true, beq_iff_eq] at ha
          exact .inr ⟨off, v, by rw [ha.1], ha.2, h⟩
        next => cases h
    | label l =>
      injection h with h
      exact .inl ⟨_, h.symm⟩
    | bnz r mask l =>
      simp only [performStmt] at h
      split at h <;> injection h with h
      · exact .inl ⟨_, h.symm⟩
      · exact .inl ⟨_, by rw [← h, two]⟩
    | failIf r mask value e =>
      simp only [performStmt] at h
      split at h <;> injection h with h
      · exact .inl ⟨_, by rw [← h, two]⟩
      · exact .inl ⟨_, h.symm⟩
    | fail e =>
      injection h with h
      exact .inl ⟨_, by rw [← h, two]⟩
    | collect r =>
      injection h with h
      exact .inl ⟨_, by rw [← h, two]⟩
    | emit =>
      injection h with h
      exact .inl ⟨_, by rw [← h, two]⟩
    | emitLen r =>
      injection h with h
      exact .inl ⟨_, by rw [← h, two]⟩
    | print r lo len =>
      injection h with h
      exact .inl ⟨_, by rw [← h, two]⟩
    | waitIrq =>
      simp only [performStmt] at h
      split at h <;> injection h with h
      · exact .inl ⟨_, h.symm⟩
      · exact .inl ⟨_, by rw [← h, two]⟩
    | report =>
      injection h with h
      exact .inl ⟨_, by rw [← h, two]⟩

/-- Everything a step can do: one agent moves (R8, R541). -/
theorem step_cases (s t : State) (h : step s = .next t) :
    (nextAgent s = .host ∧ hostStep s.popSchedule = .next t) ∨
    (nextAgent s = .engine ∧ t = complete s.popSchedule) ∨
    (nextAgent s = .reset ∧ t = s.popSchedule.softReset) := by
  unfold step systemStep at h
  cases ha : nextAgent s <;> rw [ha] at h <;> simp only [agentStep] at h
  · exact .inl ⟨rfl, h⟩
  · injection h with h
    exact .inr (.inl ⟨rfl, h.symm⟩)
  · injection h with h
    exact .inr (.inr ⟨rfl, h.symm⟩)

/-- `CMD` answers at 0x008 alone. -/
theorem regAt_cmd (off : BitVec 12) (h : regAt off = some .cmd) : off = 0x008 := by
  revert off
  decide +kernel

/-- `INT_STATUS` answers at 0x01C alone. -/
theorem regAt_intStatus (off : BitVec 12) (h : regAt off = some .intStatus) : off = 0x01C := by
  revert off
  decide +kernel

/-- The state a host's bus write acts on: the head of the schedule taken and the host past its statement. -/
abbrev State.atWrite (s : State) : State := s.popSchedule.onHost .advance

/-- What handling a write of `CMD` can do: nothing, record an error, or act on the command the word decodes to. -/
theorem dispatchCommand_effects (v : Word) (s t : State) (h : dispatchCommand v s = .next t) :
    t = s ∨ (∃ e, t = s.recordError e) ∨ (decode v = .ok .softReset ∧ t = s.softReset) ∨
    (decode v = .ok .errClear ∧ t = s.clearErrors) ∨
    (∃ c : LongCommand, decode v = .ok c.instr ∧ s.busy = false ∧ s.legal c = true ∧ t = s.issue c) := by
  rcases dispatchCommand_cases v s with ⟨i, hd, e⟩ | ⟨x, _, e⟩ <;> rw [e] at h
  · have long (c : LongCommand) (hc : c.instr = i) : (∃ e, t = s.recordError e) ∨
        (∃ c : LongCommand, decode v = .ok c.instr ∧ s.busy = false ∧ s.legal c = true ∧ t = s.issue c) := by
      subst hc
      rw [exec_longCommand] at h
      injection h with h
      rcases issueCommand_cases c s with ⟨_, e⟩ | ⟨hb, hl, e⟩ | ⟨_, _, e⟩ <;> rw [e] at h
      · exact .inl ⟨_, h.symm⟩
      · exact .inr ⟨c, hd, hb, hl, h.symm⟩
      · exact .inl ⟨_, h.symm⟩
    cases i with
    | nop =>
      rw [exec_nop] at h
      injection h with h
      exact .inl h.symm
    | softReset =>
      rw [exec_softReset] at h
      injection h with h
      exact .inr (.inr (.inl ⟨hd, h.symm⟩))
    | errClear =>
      rw [exec_errClear] at h
      injection h with h
      exact .inr (.inr (.inr (.inl ⟨hd, h.symm⟩)))
    | initStream => rcases long .initStream rfl with h | h <;> simp [h]
    | decryptBlock => rcases long .decryptBlock rfl with h | h <;> simp [h]
    | decryptFinal => rcases long .decryptFinal rfl with h | h <;> simp [h]
    | ckDecrypt => rcases long .ckDecrypt rfl with h | h <;> simp [h]
    | compare => rcases long .compare rfl with h | h <;> simp [h]
  · injection h with h
    exact .inr (.inl ⟨_, h.symm⟩)

/-- Everything a step that goes on can do to the engine, agent by agent and write by write. -/
theorem step_effects (s t : State) (h : step s = .next t) :
    (∃ f, t = s.popSchedule.onHost f) ∨
    (nextAgent s = .engine ∧ s.busy = false ∧ t = s.popSchedule) ∨
    (nextAgent s = .engine ∧ s.busy = true ∧ s.pend = none ∧ t = s.popSchedule.finishCompletion) ∨
    (∃ c, nextAgent s = .engine ∧ s.busy = true ∧ s.pend = some c ∧ t = (effect c s.popSchedule).finishCompletion) ∨
    (nextAgent s = .reset ∧ t = s.popSchedule.softReset) ∨
    (∃ e, t = s.atWrite.recordError e) ∨
    (∃ w, writesCommand s w ∧ decode w = .ok .softReset ∧ t = s.atWrite.softReset) ∨
    (∃ w, writesCommand s w ∧ decode w = .ok .errClear ∧ t = s.atWrite.clearErrors) ∨
    (∃ (w : Word) (c : LongCommand), writesCommand s w ∧ decode w = .ok c.instr ∧ s.busy = false ∧ s.legal c = true ∧
      t = s.atWrite.issue c) ∨
    (∃ v, nextAgent s = .host ∧ s.host.nextStmt = some (.bus (.write 0x01C .four v)) ∧
      t = s.atWrite.ackInterrupts v) ∨
    (∃ v, t = s.atWrite.setIntEn v) ∨
    (∃ k v, s.locked = false ∧ t = s.atWrite.setKeyWord k v) ∨
    (∃ k v, s.locked = false ∧ t = s.atWrite.setIvWord k v) ∨
    (∃ k v, t = s.atWrite.setDinWord k v) ∨
    (∃ k v, t = s.atWrite.setCkWord k v) := by
  rcases step_cases s t h with ⟨hn, e⟩ | ⟨hn, e⟩ | ⟨hn, e⟩
  · rcases hostStep_cases _ _ e with ⟨f, e⟩ | ⟨off, v, hs, _, e⟩
    · exact .inl ⟨f, e⟩
    · have hs : s.host.nextStmt = some (.bus (.write off .four v)) := by simpa using hs
      rcases writeOffset_cases off v s.atWrite with e' | ⟨hr, e'⟩ | ⟨hr, e'⟩ | ⟨hr, e'⟩ | ⟨k, hr, e'⟩ | ⟨k, hr, e'⟩ |
        ⟨k, hr, e'⟩ | ⟨k, hr, e'⟩ <;> rw [e'] at e
      · injection e with e
        exact .inl ⟨_, e.symm⟩
      · have hw : writesCommand s v := ⟨hn, by rw [hs, regAt_cmd off hr]⟩
        have hl (c : LongCommand) : s.atWrite.legal c = s.legal c := by
          cases c <;> simp only [State.legal, State.onHost_sstate, State.popSchedule_sstate, State.onHost_ckstate,
            State.popSchedule_ckstate]
        rcases dispatchCommand_effects v s.atWrite t e with e | ⟨x, e⟩ | ⟨hd, e⟩ | ⟨hd, e⟩ | ⟨c, hd, hb, hc, e⟩
        · exact .inl ⟨_, e⟩
        · exact .inr (.inr (.inr (.inr (.inr (.inl ⟨x, e⟩)))))
        · exact .inr (.inr (.inr (.inr (.inr (.inr (.inl ⟨v, hw, hd, e⟩))))))
        · exact .inr (.inr (.inr (.inr (.inr (.inr (.inr (.inl ⟨v, hw, hd, e⟩)))))))
        · have hb' : s.busy = false := by simpa using hb
          exact .inr (.inr (.inr (.inr (.inr (.inr (.inr (.inr (.inl ⟨v, c, hw, hd, hb', (hl c) ▸ hc, e⟩))))))))
      · injection e with e
        exact .inr (.inr (.inr (.inr (.inr (.inr (.inr (.inr (.inr (.inr (.inl ⟨v, e.symm⟩))))))))))
      · injection e with e
        rw [regAt_intStatus off hr] at hs
        exact .inr (.inr (.inr (.inr (.inr (.inr (.inr (.inr (.inr (.inl ⟨v, hn, hs, e.symm⟩)))))))))
      · injection e with e
        have hlk : s.atWrite.locked = s.locked := by
          simp only [State.locked, State.onHost_sstate, State.popSchedule_sstate, State.onHost_busy,
            State.popSchedule_busy, State.onHost_pend, State.popSchedule_pend]
        rcases lockChecked_cases (State.setKeyWord k.val v) s.atWrite with ⟨_, e'⟩ | ⟨hk, e'⟩ <;> rw [e'] at e
        · exact .inr (.inr (.inr (.inr (.inr (.inl ⟨_, e.symm⟩)))))
        · exact .inr (.inr (.inr (.inr (.inr (.inr (.inr (.inr (.inr (.inr (.inr (.inl ⟨_, _, hlk ▸ hk,
            e.symm⟩)))))))))))
      · injection e with e
        have hlk : s.atWrite.locked = s.locked := by
          simp only [State.locked, State.onHost_sstate, State.popSchedule_sstate, State.onHost_busy,
            State.popSchedule_busy, State.onHost_pend, State.popSchedule_pend]
        rcases lockChecked_cases (State.setIvWord k.val v) s.atWrite with ⟨_, e'⟩ | ⟨hk, e'⟩ <;> rw [e'] at e
        · exact .inr (.inr (.inr (.inr (.inr (.inl ⟨_, e.symm⟩)))))
        · exact .inr (.inr (.inr (.inr (.inr (.inr (.inr (.inr (.inr (.inr (.inr (.inr (.inl ⟨_, _, hlk ▸ hk,
            e.symm⟩))))))))))))
      · injection e with e
        exact .inr (.inr (.inr (.inr (.inr (.inr (.inr (.inr (.inr (.inr (.inr (.inr (.inr (.inl ⟨_, _,
          e.symm⟩)))))))))))))
      · injection e with e
        exact .inr (.inr (.inr (.inr (.inr (.inr (.inr (.inr (.inr (.inr (.inr (.inr (.inr (.inr ⟨_, _,
          e.symm⟩)))))))))))))
  · rcases complete_cases s.popSchedule with ⟨hb, e'⟩ | ⟨hb, hp, e'⟩ | ⟨c, hb, hp, e'⟩ <;> rw [e'] at e
    · exact .inr (.inl ⟨hn, by simpa using hb, e⟩)
    · exact .inr (.inr (.inl ⟨hn, by simpa using hb, by simpa using hp, e⟩))
    · exact .inr (.inr (.inr (.inl ⟨c, hn, by simpa using hb, by simpa using hp, e⟩)))
  · exact .inr (.inr (.inr (.inr (.inl ⟨hn, e⟩))))

end Sys2Proof.Machine
end

