-- ==== Sys2Proof/Tests/Slice0.lean ====
section
/-! SUPPORT. Tests on fixed values, each with the place of spec/ its expected result comes from, and a witness for the
hypotheses of each statement that has some. -/

namespace Sys2Proof.Tests

open Sys2Proof Sys2Proof.Machine

/-! ### Helpers -/

/-- The `n` bytes of a hex literal, byte 0 first. -/
def hexBytes (n h : Nat) : Bytes n := Vector.ofFn fun i => BitVec.ofNat 8 (h >>> (8 * (n - 1 - i.val)))

/-- A state with a command in flight. -/
def inFlight (c : LongCommand) : State := { State.reset with busy := true, pend := some c }

/-- A state whose host is about to perform `st`, with nothing in flight. -/
def hostAt (st : Stmt) : State := State.reset.loadProgram [st]

/-- The state an outcome goes on in. -/
def outcomeState (o : Host.Outcome State Fault Refusal) : Option State :=
  match o with
  | .next s => some s
  | _ => none

/-- A container of `n` bytes with magic and version bytes 0. -/
def zeroFile (n : Nat) : List Byte := List.replicate n 0

/-- A run on a container of 211 zero bytes. -/
def zeroRun (override : Bool) : RunRequest where
  inputPath := ['a', '.', 'b']
  file := some (zeroFile 211)
  password := none
  override := override
  dryRun := false
  force := false
  existing := none
  shortChunk := none
  magic := zeros 3
  supportedMajor := 0
  partialOutput := .kept

/-- A path library that takes the last two characters for the extension. -/
def dropTwo (p : Path) : Path := p.dropLast.dropLast

/-! ### Well-formedness: each check refuses an ill-formed program -/

theorem test_wf_accepts :
    programWellFormed (expandProgram [.ldkey (zeros 32), .cmd .ckDecrypt, .wait, .rd .status]) = true := by decide

theorem test_wf_duplicate_label : labelsUnique [.label (.named 0), .label (.named 0)] = false := by decide

theorem test_wf_undefined_label : labelsDefined [.label (.named 0), .bnz .status 0x1 (.named 1)] = false := by decide

theorem test_wf_misaligned : accessesAligned [.bus (.read 0x00E .four)] = false := by decide

theorem test_wf_narrow : accessesAligned [.bus (.write 0x008 .two 0)] = false := by decide

theorem test_wf_commands : [Instr.nop, .softReset, .initStream, .decryptBlock, .decryptFinal, .ckDecrypt, .compare,
    .errClear].all Instr.wellFormed = true := by decide

/-! ### Decoding: the words of R141, bit by bit, and words that are no command (R142) -/

theorem test_decode_nop : decode 0b00000000000000000000000000000000 = .ok .nop := by rfl

theorem test_decode_softReset : decode 0b00000000000000000000000000000001 = .ok .softReset := by rfl

theorem test_decode_initStream : decode 0b00000000000000000000000000000010 = .ok .initStream := by rfl

theorem test_decode_decryptBlock : decode 0b00000000000000000000000000000011 = .ok .decryptBlock := by rfl

theorem test_decode_decryptFinal : decode 0b00000000000000000000000000000100 = .ok .decryptFinal := by rfl

theorem test_decode_ckDecrypt : decode 0b00000000000000000000000000000101 = .ok .ckDecrypt := by rfl

theorem test_decode_compare : decode 0b00000000000000000000000000000110 = .ok .compare := by rfl

theorem test_decode_errClear : decode 0b00000000000000000000000000000111 = .ok .errClear := by rfl

theorem test_decode_illegal : [(0x00000008 : Word), 0x000000FF, 0x00000100, 0x00000102, 0x80000002].all
    (fun w => (decode w).toOption.isNone) = true := by decide

theorem test_table_word : decodeTableWord 32 0x00000005 = some .ckDecrypt ∧ decodeTableWord 32 0x00000105 = none := by
  decide

/-! ### One step of each command -/

/-- R204, 40_control.md: `NOP` while `BUSY` = 1 is no error. -/
theorem test_nop_while_busy : (outcomeState (exec .nop (inFlight .ckDecrypt))).map State.errcode = some none := by decide

/-- R221: after `SOFT_RESET` a command in flight is gone and `STATUS` reads 0. -/
theorem test_softReset_abandons :
    (outcomeState (exec .softReset (inFlight .decryptBlock))).map State.statusWord = some 0 := by decide

/-- R282, 95_test_vectors.md §3.3: `STATUS` = 0x02 and `CHAIN` = the IV after `INIT_STREAM`. -/
theorem test_initStream :
    let s := complete { inFlight .initStream with lIv := hexBytes 16 0xa0a1a2a3a4a5a6a7a8a9aaabacadaeaf }
    s.statusWord = 0x02 ∧ s.chain = hexBytes 16 0xa0a1a2a3a4a5a6a7a8a9aaabacadaeaf := by decide

/-- R285, SP 800-38A F.2.6 (95_test_vectors.md §1). -/
theorem test_decryptBlock :
    (complete { inFlight .decryptBlock with
      sstate := .stream
      lKey := hexBytes 32 0x603deb1015ca71be2b73aef0857d77811f352c073b6108d72d9810a30914dff4
      lDin := hexBytes 16 0xf58c4c04d6e5f1ba779eabfb5f7bfbd6
      chain := hexBytes 16 0x000102030405060708090a0b0c0d0e0f }).dout.toList =
    (hexBytes 16 0x6bc1bee22e409f96e93d7e117393172a).toList := by decide +kernel

/-- R205: `DECRYPT_BLOCK` after reset raises `SEQUENCE` (95_test_vectors.md program P4). -/
theorem test_decryptBlock_sequence :
    (outcomeState (exec .decryptBlock State.reset)).map State.errcode = some (some .sequence) := by decide

/-- Fixture F1's key (95_test_vectors.md §0). -/
def f1Key : Bytes 32 := hexBytes 32 0x9f1bdf467f5b96178e04b2aab560b4f236a7d154ac40a128c1e6f857ecc455b9

/-- R290, fixture F1: "hello world", its SHA-1 and `DONE` (95_test_vectors.md program P2). -/
theorem test_decryptFinal :
    let s := complete { inFlight .decryptFinal with
      sstate := .stream
      lKey := f1Key
      lDin := hexBytes 16 0x4166f30d5227f0758a5756807704461c
      chain := hexBytes 16 0xa0a1a2a3a4a5a6a7a8a9aaabacadaeaf }
    s.statusWord = 0x04 ∧ s.doutLen = 11 ∧ s.dout.toList = (hexBytes 16 0x68656c6c6f20776f726c640000000000).toList ∧
    s.digest.toList.take 20 = (hexBytes 20 0x2aae6c35c94fcfb415dbe95f408b9ce91ee846ed).toList := by decide +kernel

/-- R250, fixture F1 (95_test_vectors.md §3.2, row 1). -/
theorem test_ckDecrypt :
    let s := complete { inFlight .ckDecrypt with
      lKey := f1Key
      lIv := hexBytes 16 0xa0a1a2a3a4a5a6a7a8a9aaabacadaeaf
      lCk := hexBytes 32 0x36b90e259aac63e8bf800dedbc31373efabe0e3dcb14ffa70c67b3bcfde0ffb9 }
    s.statusWord = 0x08 ∧ s.expLen = 20 ∧
    s.exp.toList.take 20 = (hexBytes 20 0x2aae6c35c94fcfb415dbe95f408b9ce91ee846ed).toList := by decide +kernel

/-- A state in which `COMPARE` is in flight, with `SHA-1("hello world")` as the expected hash. -/
def comparing (digest : Bytes 32) : State :=
  { inFlight .compare with
    sstate := .done, ckstate := .valid, expLen := 20, digest := digest
    exp := padTo 32 (hexBytes 20 0x2aae6c35c94fcfb415dbe95f408b9ce91ee846ed).toList }

/-- R340: a match ends with `STATUS` = 0x6C (95_test_vectors.md program P2). -/
theorem test_compare_match : (complete (comparing (comparing (zeros 32)).exp)).statusWord = 0x6C := by decide

/-- R340: a mismatch ends with `STATUS` = 0x2C and `INT_STATUS.MISMATCH` = 1 (95_test_vectors.md program P3). -/
theorem test_compare_mismatch :
    (complete (comparing (zeros 32))).statusWord = 0x2C ∧ (complete (comparing (zeros 32))).intStatus = 0x5 := by decide

/-- R222: `ERRFLAGS` from 0x5A to 0 and `STATUS` from 0x86 to 0x06 (95_test_vectors.md program P4). -/
theorem test_errClear :
    let s := { State.reset with sstate := .error, errcode := some .padStream, errflags := 0x5A, intStatus := 0x3 }
    s.statusWord = 0x86 ∧ (outcomeState (exec .errClear s)).map (fun t => (t.statusWord, t.errflags, t.intStatus)) =
      some (0x06, 0, 0x3) := by decide

/-- R203: `WR CMD, 0x108` in `STREAM` gives `ERRCODE` = 3 and leaves `STREAM`. -/
theorem test_illegal : (outcomeState (writeOffset 0x008 0x108 { State.reset with sstate := .stream })).map
    (fun t => (errcodeWord t.errcode, t.sstate)) = some (3, .stream) := by decide

/-- A word put by `withFetchWord` is the first command after reset. -/
theorem test_fetch_word :
    (outcomeState (step (State.reset.withFetchWord 32 0x00000005))).map (fun t => (t.pend, t.busy)) =
      some (some .ckDecrypt, true) := by decide

/-! ### Registers and the host notation -/

/-- R105: the key bytes `9f 1b df 46` are written as `KEY0 = 0x46df1b9f`. -/
theorem test_pack : wordAt f1Key 0 = 0x46df1b9f := by decide

/-- R151: the expansion of `LDIV a0a1a2a3a4a5a6a7a8a9aaabacadaeaf`. -/
theorem test_ldiv : encodeProgram (expandProgram [.ldiv (hexBytes 16 0xa0a1a2a3a4a5a6a7a8a9aaabacadaeaf)]) =
    [.write 0x040 .four 0xa3a2a1a0, .write 0x044 .four 0xa7a6a5a4, .write 0x048 .four 0xabaaa9a8,
      .write 0x04C .four 0xafaeadac] := by decide

/-- R495, fixture F1 (95_test_vectors.md §0): the expected hash as the report prints it, in the
digits of log entry 28. -/
theorem test_report_prints :
    (outcomeState (performStmts (expandProgram reportLines) (comparing (zeros 32)))).map (fun t =>
      (t.host.printed.map String.ofList, t.host.outcome)) =
    some (["2aae6c35c94fcfb415dbe95f408b9ce91ee846ed", "0000000000000000000000000000000000000000"], .integrityWarning) := by
  decide +kernel

/-- R492: a run whose output file exists fails without force and leaves that file as it was. -/
theorem test_existing_output :
    let t := startRun dropTwo { zeroRun true with existing := some [0x41] } State.reset
    t.host.outcome = .failed .io ∧ t.host.outputFile = some [0x41] := by decide +kernel

/-- R104: a two-byte access faults. -/
theorem test_bus_error : step (hostAt (.bus (.read 0x00C .two))) = .fault (.busError (.read 0x00C .two)) := by rfl

/-! ### Known answers (44_aes256.md R374, 45_hash_functions.md R445) -/

theorem test_keyExpansion :
    let w := Aes.keyExpansion (hexBytes 32 0x000102030405060708090a0b0c0d0e0f101112131415161718191a1b1c1d1e1f)
    w.getD 8 (zeros 4) = hexBytes 4 0xa573c29f ∧ w.getD 9 (zeros 4) = hexBytes 4 0xa176c498 ∧
      w.getD 59 (zeros 4) = hexBytes 4 0x6d68de36 := by decide +kernel

theorem test_sha1_abc :
    messageDigest .sha1 [0x61, 0x62, 0x63] = (hexBytes 20 0xa9993e364706816aba3e25717850c26c9cd0d89d).toList := by
  decide +kernel

theorem test_sha256_abc :
    messageDigest .sha256 [0x61, 0x62, 0x63] =
      (hexBytes 32 0xba7816bf8f01cfea414140de5dae2223b00361a396177a9cb410ff61f20015ad).toList := by decide +kernel

/-- The first bytes of `SHA512("easycrab" || 101112...1f)`. -/
theorem test_sha512 :
    (sha512Digest ([0x65, 0x61, 0x73, 0x79, 0x63, 0x72, 0x61, 0x62] ++
      (hexBytes 16 0x101112131415161718191a1b1c1d1e1f).toList)).take 32 = f1Key.toList := by decide +kernel

/-! ### Witnesses: a concrete state and operands for the hypotheses of each statement that has some, one for each clause -/

/-- The PKCS#7 block of sixteen bytes 0x10. -/
def fullPad : Bytes 16 := Vector.replicate 16 0x10

/-- A block whose decryption under the zero key and the given chain is `p`. -/
theorem chained_plain (k : Bytes 32) (c p : Bytes 16) :
    xorBytes (Aes.aesDec256 k c) (xorBytes (Aes.aesDec256 k c) p) = p := xorBytes_cancel _ _

theorem fullPad_ok : pkcs7Ok fullPad = true := by decide

/-- A state of an open stream with nothing in flight. -/
def openStream : State := { State.reset with sstate := .stream }

/-- Words at the ends of the two illegal ranges. -/
theorem witness_IllegalCommandRecorded :
    ((0x00000100 : Word).extractLsb' 8 24 ≠ 0) ∧ (8 ≤ ((0x00000008 : Word).extractLsb' 0 8).toNat) ∧
    (8 ≤ ((0x000000FF : Word).extractLsb' 0 8).toNat) := by decide

theorem witness_ErrorRecord :
    (EngineError.locked, 6) ∈ [(EngineError.padStream, 1), (.padChecksum, 2), (.illegalCmd, 3), (.sequence, 4),
      (.busy, 5), (.locked, 6)] := by decide

theorem witness_AcceptedIssue :
    State.reset.busy = false ∧ openStream.busy = false ∧ openStream.sstate = .stream ∧
    ({ comparing (zeros 32) with busy := false, pend := none } : State).sstate = .done ∧
    ({ comparing (zeros 32) with busy := false, pend := none } : State).ckstate = .valid := by decide

theorem witness_InitStreamCompletes :
    State.reset.busy = false ∧ (inFlight .initStream).busy = true ∧ (inFlight .initStream).pend = some .initStream := by
  decide

theorem witness_DecryptBlockCompletes :
    (openStream.busy = false ∧ openStream.sstate = .stream) ∧ State.reset.sstate ≠ .stream ∧
    (inFlight .decryptBlock).busy = true ∧ (inFlight .decryptBlock).pend = some .decryptBlock := by decide

/-- The final block in flight, its plaintext the block `p`. -/
def finalInFlight (p : Bytes 16) : State :=
  { inFlight .decryptFinal with sstate := .stream, chain := xorBytes (Aes.aesDec256 (zeros 32) (zeros 16)) p }

theorem witness_DecryptFinalCompletes_good :
    (finalInFlight fullPad).busy = true ∧ (finalInFlight fullPad).pend = some .decryptFinal ∧
    pkcs7Ok (xorBytes (Aes.aesDec256 (finalInFlight fullPad).lKey (finalInFlight fullPad).lDin)
      (finalInFlight fullPad).chain) = true :=
  ⟨rfl, rfl, by rw [finalInFlight]; exact (congrArg pkcs7Ok (chained_plain _ _ _)).trans fullPad_ok⟩

theorem witness_DecryptFinalCompletes_bad :
    (finalInFlight (zeros 16)).busy = true ∧ (finalInFlight (zeros 16)).pend = some .decryptFinal ∧
    pkcs7Ok (xorBytes (Aes.aesDec256 (finalInFlight (zeros 16)).lKey (finalInFlight (zeros 16)).lDin)
      (finalInFlight (zeros 16)).chain) = false :=
  ⟨rfl, rfl, by rw [finalInFlight]; exact (congrArg pkcs7Ok (chained_plain _ _ _)).trans (by decide)⟩

/-- A checksum in flight whose second block's plaintext is `p`. -/
def checksumInFlight (p : Bytes 16) : State :=
  { inFlight .ckDecrypt with
    lCk := padTo 32 ((xorBytes (Aes.aesDec256 (zeros 32) (zeros 16)) p).toList ++ (zeros 16).toList) }

theorem checksumInFlight_second (p : Bytes 16) : (checksumInFlight p).checksumSecond = p := by
  have h1 : highBlock (checksumInFlight p).lCk = zeros 16 := by
    apply bytes_ext
    intro i hi
    interval_cases i <;> simp [checksumInFlight, highBlock, padTo, byteAt]
  have h0 : lowBlock (checksumInFlight p).lCk = xorBytes (Aes.aesDec256 (zeros 32) (zeros 16)) p := by
    apply bytes_ext
    intro i hi
    simp [checksumInFlight, lowBlock, padTo, byteAt, hi]
  rw [State.checksumSecond, h1, h0]
  exact chained_plain _ _ _

/-- The statement's own form of the second block's plaintext. -/
theorem witness_CkDecryptCompletes :
    (∃ s : State, s.busy = true ∧ s.pend = some .ckDecrypt ∧ pkcs7Ok s.checksumSecond = true) ∧
    ∃ s : State, s.busy = true ∧ s.pend = some .ckDecrypt ∧ pkcs7Ok s.checksumSecond = false :=
  ⟨⟨checksumInFlight fullPad, rfl, rfl, by rw [checksumInFlight_second]; exact fullPad_ok⟩,
    ⟨checksumInFlight (zeros 16), rfl, rfl, by rw [checksumInFlight_second]; decide⟩⟩

theorem witness_ExpectedHashLength :
    (checksumInFlight fullPad).busy = true ∧ (checksumInFlight fullPad).pend = some .ckDecrypt ∧
    (complete (checksumInFlight fullPad)).ckstate = .valid := by
  have h : effectCkDecrypt (checksumInFlight fullPad) = checksumGood 16 (checksumInFlight fullPad) := by
    rw [effectCkDecrypt, checksumInFlight_second, fullPad_ok]
    rfl
  have hc : complete (checksumInFlight fullPad) = (effectCkDecrypt (checksumInFlight fullPad)).finishCompletion := rfl
  exact ⟨rfl, rfl, by rw [hc, h]; simp⟩

theorem witness_CompareCompletes_match :
    let s := comparing (comparing (zeros 32)).exp
    s.busy = true ∧ s.pend = some .compare ∧ s.expLen = s.hashAlg.hashLen ∧
    ∀ i < s.expLen, byteAt s.exp i = byteAt s.digest i := by decide

theorem witness_CompareCompletes_mismatch :
    let s := comparing (zeros 32)
    s.busy = true ∧ s.pend = some .compare ∧
    ¬(s.expLen = s.hashAlg.hashLen ∧ ∀ i < s.expLen, byteAt s.exp i = byteAt s.digest i) := by decide

/-- A `COMPARE` in flight in the `SHA256` build. -/
def comparing256 : State :=
  { State.resetOf .sha256 with busy := true, pend := some .compare, sstate := .done, ckstate := .valid, expLen := 20 }

theorem comparing256_inv : EngineInv comparing256 := by
  constructor <;> simp [comparing256, State.resetOf, byteAt_zeros, hashInit_alg, State.legal]

/-- Also a state for `InvariantKept` and for the `EngineInv` clause of `InterruptRegisterWrites`. -/
theorem witness_Sha256NeverMatches :
    EngineInv comparing256 ∧ comparing256.hashAlg = .sha256 ∧ comparing256.busy = true ∧
    comparing256.pend = some .compare := ⟨comparing256_inv, rfl, rfl, rfl⟩

theorem witness_InvariantKept : EngineInv comparing256 ∧ step comparing256 = .next (complete comparing256) :=
  ⟨comparing256_inv, rfl⟩

/-- 47 pending bytes and 16 more stay below a block, 48 and 16 fill one, 63 and 16 overrun one. -/
theorem witness_AbsorbShort :
    (List.replicate 16 (0 : Byte)).length ≤ 16 ∧ (List.replicate 47 (0 : Byte)).length + 16 < 64 ∧
    ¬(List.replicate 48 (0 : Byte)).length + 16 < 64 ∧ (List.replicate 63 (0 : Byte)).length ≤ 63 := by decide

/-- 55 pending bytes leave a tail of one block, 56 of two. -/
theorem witness_FinalizeTail :
    ({ State.reset with hbuf := List.replicate 55 0 } : State).hashTail.length = 64 ∧
    ({ State.reset with hbuf := List.replicate 56 0 } : State).hashTail.length = 128 ∧
    ({ State.reset with hbuf := List.replicate 56 0 } : State).hbuf.length ≤ 63 := by decide +kernel

/-- Also with 63 pending bytes, the most the premise allows. -/
theorem witness_BlocksDecryptCbc :
    openStream.busy = false ∧ openStream.sstate = .stream ∧ openStream.hbuf.length ≤ 63 ∧
    ({ openStream with hbuf := List.replicate 63 0 } : State).hbuf.length ≤ 63 := by decide

/-- A region of one block, all of it padding. -/
theorem witness_RegionDecrypts :
    ∃ (s : State) (c : Bytes 16), s.busy = false ∧
      pkcs7Ok (xorBytes (Aes.aesDec256 s.key c) (([] : List (Bytes 16)).getLastD s.iv)) = true :=
  ⟨{ State.reset with iv := xorBytes (Aes.aesDec256 (zeros 32) (zeros 16)) fullPad }, zeros 16, rfl,
    (congrArg pkcs7Ok (chained_plain _ _ _)).trans fullPad_ok⟩

/-- Two states that differ in the checksum unit, and two that differ in the stream. -/
theorem witness_ChecksumIndependent :
    (inFlight .ckDecrypt).pend = some .ckDecrypt ∧
    (∃ s t : State, SameStream s t ∧ SameLatches s t ∧ s.expLen ≠ t.expLen ∧ s.busy = true ∧ t.busy = true ∧
      s.pend = some .decryptBlock ∧ t.pend = some .decryptBlock) ∧
    (∃ s t : State, SameLatches s t ∧ s.hcount ≠ t.hcount ∧ s.busy = true ∧ t.busy = true ∧
      s.pend = some .ckDecrypt ∧ t.pend = some .ckDecrypt) ∧ (inFlight .compare).pend ≠ some .ckDecrypt := by
  refine ⟨rfl, ⟨inFlight .decryptBlock, { inFlight .decryptBlock with expLen := 20 }, ?_, ?_, by decide, rfl, rfl, rfl,
    rfl⟩, ⟨inFlight .ckDecrypt, { inFlight .ckDecrypt with hcount := 5 }, ?_, by decide, rfl, rfl, rfl, rfl⟩, by decide⟩ <;>
  constructor <;> rfl

/-- The lengths at the ends of the ranges of the read of `DOUT_LEN` and `EXP_LEN`, and a last byte of each array. -/
theorem witness_RegisterReads :
    ({ State.reset with doutLen := 16 } : State).doutLen ≤ 16 ∧ ({ State.reset with expLen := 32 } : State).expLen ≤ 32 ∧
    7 < 8 ∧ 15 < 16 ∧ 31 < 32 := by decide

/-- Read-only and reserved offsets at the ends of their ranges, and no offset that takes writes among them. -/
theorem witness_ReadOnlyAndReserved :
    [(0x000 : BitVec 12), 0x014, 0x060, 0x07C, 0x0A0, 0x0C4, 0x0DC, 0x0FC, 0x100, 0xFFC].all
      (fun off => off.toNat % 4 == 0 && (match regAt off with
        | some .cmd | some .intEn | some .intStatus | some (.key _) | some (.iv _) | some (.din _) | some (.ck _) => false
        | _ => true)) = true := by decide

theorem witness_DataRegisterWrites :
    openStream.sstate = .stream ∧ ((inFlight .initStream).busy = true ∧ (inFlight .initStream).pend = some .initStream) ∧
    ¬(State.reset.sstate = .stream ∨ (State.reset.busy = true ∧ State.reset.pend = some .initStream)) := by decide

theorem witness_WritesReadBack :
    State.reset.locked = false ∧ writeOffset (offsetOf (.iv 3)) 0x12345678 State.reset =
      .next (State.reset.setIvWord 3 0x12345678) ∧
    writeOffset (offsetOf (.ck 7)) 0x12345678 openStream = .next (openStream.setCkWord 7 0x12345678) ∧
    writeOffset (offsetOf (.key 0)) 0x12345678 State.reset = .next (State.reset.setKeyWord 0 0x12345678) :=
  ⟨rfl, rfl, rfl, rfl⟩

theorem witness_BusErrors :
    let b : BusOp := .write 0x00A .four 0x0
    (b.size ≠ .four ∨ b.offset.toNat % 4 ≠ 0) ∧ nextAgent (hostAt (.bus b)) = .host ∧
    (hostAt (.bus b)).host.nextStmt = some (.bus b) ∧ BusOp.size (.read 0xFFC .four) = .four ∧
    (BusOp.offset (.read 0xFFC .four)).toNat % 4 = 0 := by decide

theorem witness_ReadsArePure :
    (0xFFC : BitVec 12).toNat % 4 = 0 ∧ nextAgent (hostAt (.bus (.read 0xFFC .four))) = .host ∧
    (hostAt (.bus (.read 0xFFC .four))).host.nextStmt = some (.bus (.read 0xFFC .four)) := by decide

theorem witness_StepRunsDecoded :
    nextAgent (hostAt (.bus (.write 0x008 .four 0x5))) = .host ∧
    (hostAt (.bus (.write 0x008 .four 0x5))).host.nextStmt = some (.bus (.write 0x008 .four 0x5)) ∧
    decode 0x5 = .ok .ckDecrypt := ⟨rfl, rfl, rfl⟩

theorem witness_FetchWordRuns : decodeTableWord 32 0x00000007 = some .errClear := by decide

theorem witness_CommandCompletes :
    (inFlight .compare).busy = true ∧ (inFlight .compare).schedule = [] ∧
    ({ inFlight .compare with schedule := [.engine, .host] } : State).schedule.head? = some .engine := by decide

/-- A step that sets `BUSY`, and one that clears it. -/
theorem witness_BusyWriters :
    (∃ t, step (hostAt (.bus (.write 0x008 .four 0x2))) = .next t ∧ t.busy = true) ∧
    ∃ t, step (inFlight .initStream) = .next t ∧ t.busy = false := ⟨⟨_, rfl, rfl⟩, ⟨_, rfl, rfl⟩⟩

/-- Also a step that changes `CHAIN`, the accumulator and the result registers. -/
theorem witness_StreamStateWriters :
    ∃ t, step { inFlight .initStream with lIv := fullPad, hcount := 5, doutLen := 3 } = .next t ∧
      t.sstate ≠ State.reset.sstate ∧ t.chain ≠ State.reset.chain ∧ t.hcount ≠ 5 ∧ t.doutLen ≠ 3 :=
  ⟨_, rfl, by decide, by decide, by decide, by decide⟩

theorem witness_StreamInternalsWriters :
    ∃ (s t : State), step s = .next t ∧ t.chain ≠ s.chain ∧
      ¬(t.hstate = s.hstate ∧ t.hbuf = s.hbuf ∧ t.hcount = s.hcount) :=
  ⟨{ inFlight .initStream with lIv := fullPad, hcount := 5 }, _, rfl, by decide, fun h => absurd h.2.2 (by decide)⟩

theorem witness_ResultsAtCompletion :
    ∃ (s t : State), step s = .next t ∧ ¬ SameResults s t :=
  ⟨{ inFlight .initStream with doutLen := 3 }, _, rfl, fun h => absurd h.stream.doutLen (by decide)⟩

/-- A reset leaves `VALID`; the first `COMPARE` sets `CMP_VALID` and an `INIT_STREAM` clears it. -/
theorem witness_ChecksumStateWriters :
    (∃ t, step { State.reset with ckstate := .valid, schedule := [.reset] } = .next t ∧ t.ckstate = .empty) ∧
    (∃ t, step (comparing (zeros 32)) = .next t ∧ t.cmpValid = true) ∧
    ∃ t, step { inFlight .initStream with cmpValid := true } = .next t ∧ t.cmpValid = false :=
  ⟨⟨_, rfl, rfl⟩, ⟨_, rfl, rfl⟩, ⟨_, rfl, rfl⟩⟩

theorem witness_StickyBits :
    (∃ t, step { hostAt (.bus (.write 0x008 .four 0x7)) with errflags := 0x02 } = .next t ∧ t.errflags.getLsbD 1 = false) ∧
    ∃ t, step { hostAt (.bus (.write 0x01C .four 0x4)) with intStatus := 0x4 } = .next t ∧
      t.intStatus.getLsbD 2 = false := ⟨⟨_, rfl, by decide⟩, ⟨_, rfl, by decide⟩⟩

theorem witness_KeyHeldWhileLocked :
    ∃ t, step { openStream with key := f1Key, schedule := [.reset] } = .next t ∧ openStream.locked = true ∧
      ¬(t.key = f1Key ∧ t.iv = openStream.iv) :=
  ⟨_, rfl, by decide, fun h => absurd h.1 (by decide)⟩

theorem witness_MessageSchedules :
    (List.replicate 64 (0x61 : Byte)).length = 64 ∧ (16 ≤ 16 ∧ 16 < 64) ∧ (16 ≤ 79 ∧ 79 < 80) := by decide

/-- The Reader's clauses at the lengths where they meet: 2, 3, 4, 0xC3 and 0xC4 bytes. -/
theorem witness_ReaderOutcomes :
    (zeroFile 2).length < 3 ∧ (3 ≤ (zeroFile 3).length ∧ (zeroFile 3).take 3 ≠ (Vector.replicate 3 (1 : Byte)).toList) ∧
    ((zeroFile 3).length = 3 ∧ (zeroFile 3).take 3 = (zeros 3).toList) ∧
    (4 ≤ (zeroFile 4).length ∧ (zeroFile 4).take 3 = (zeros 3).toList ∧ (zeroFile 4).getD 3 0 ≠ 0x56) ∧
    (4 ≤ (zeroFile 0xC3).length ∧ (zeroFile 0xC3).length ≤ 0xC3 ∧ (zeroFile 0xC3).take 3 = (zeros 3).toList ∧
      (zeroFile 0xC3).getD 3 0 = 0x00) ∧
    0xC3 < (zeroFile 0xC4).length ∧ (zeroFile 0xC4).take 3 = (zeros 3).toList ∧ (zeroFile 0xC4).getD 3 0 = 0x00 := by
  decide +kernel

theorem witness_WrongPasswordStops :
    (zeroRun false).file = some (zeroFile 211) ∧
    ∃ c, readContainer (zeroRun false).magic (zeroRun false).supportedMajor (zeroFile 211) = .ok c ∧
      sha512Digest ((zeroRun false).password.getD [] ++ c.salt) ≠ c.pwhash :=
  ⟨rfl, { iv := zeros 16, salt := zeroFile 16, pwhash := zeroFile 64, data := zeroFile 16, ck := zeros 32 },
    by decide +kernel, by decide +kernel⟩

theorem witness_SameDriverProgram : ∃ p, planRun dropTwo (zeroRun true) = .ok p := by
  have h : (planRun dropTwo (zeroRun true)).toOption.isSome = true := by decide +kernel
  cases hp : planRun dropTwo (zeroRun true) with
  | ok p => exact ⟨p, rfl⟩
  | error e => rw [hp] at h; cases h

theorem witness_ChunksInvisible :
    (0 < (zeroFile 16).length ∧ (zeroFile 16).length % 16 = 0) ∧ 0 < (zeroFile 17).length ∧
    (zeroFile 17).length % 16 ≠ 0 ∧ 0 ≤ ((zeroFile 16).length - 1) / 131072 := by decide

/-- A state whose host is at the `BNZ` of a `WAIT`. -/
def waiting (busy : Bool) : State :=
  { State.reset with
    busy := busy
    host := { HostAgent.idle with program := expandProgram [.wait], pc := 1 }
    schedule := [.host] }

theorem witness_WaitPollsBusy :
    (nextAgent (waiting true) = .host ∧ (waiting true).host.nextStmt = some (.bnz .status 0x1 (.wait 0)) ∧
      Stmt.label (.wait 0) ∈ (waiting true).host.program ∧ (waiting true).busy = true) ∧
    nextAgent (waiting false) = .host ∧ (waiting false).host.nextStmt = some (.bnz .status 0x1 (.wait 0)) ∧
      Stmt.label (.wait 0) ∈ (waiting false).host.program ∧ (waiting false).busy = false := by decide

/-- Locked by an open stream and by one being opened, and not locked. -/
theorem witness_LoadsWholeArrays :
    State.reset.locked = false ∧ openStream.locked = true ∧ (inFlight .initStream).locked = true := by decide

theorem witness_ReportAndExit :
    (comparing (zeros 32)).expLen ≤ 32 ∧ (comparing (zeros 32)).host.buffer = [] := by decide

/-- A block of SHA-1 and SHA-256 and one of SHA-512, with the first and last round where the round functions change. -/
theorem witness_CompressionRounds :
    (List.replicate 64 (0x61 : Byte)).length = 16 * 4 ∧ (List.replicate 128 (0x61 : Byte)).length = 16 * 8 ∧
    (19 < 20 ∧ 40 ≤ 40 ∧ 59 < 60 ∧ 79 < 80) := by decide

/-- The ends of the reserved ranges. -/
theorem witness_RegisterOffsets :
    [(0x07C : BitVec 12), 0x0C4, 0x0DC, 0x100, 0xFFC].all (fun off => off.toNat % 4 == 0 && (regAt off).isNone) = true ∧
    [(0x078 : BitVec 12), 0x080, 0x0C0, 0x0E0, 0x0FC].all (fun off => off.toNat % 4 == 0 && (regAt off).isSome) = true := by
  decide

theorem witness_PackedBytes : 31 < 32 ∧ 0 < [(0x46df1b9f : Word)].length := by decide

theorem witness_PaddingRule : pkcs7Ok fullPad = true ∧ pkcs7Ok (zeros 16) = false := by decide

theorem witness_InterruptRegisterWrites : EngineInv comparing256 := comparing256_inv

theorem witness_KeyExpansionRule : (7 < 8 ∧ 3 < 4) ∧ (8 ≤ 8 ∧ 8 < 60) ∧ (8 ≤ 59 ∧ 59 < 60) := by decide

theorem witness_InverseRoundSteps : 0 < 4 ∧ 3 < 4 := by decide

end Sys2Proof.Tests
end

section
/-! Packing the bytes of an array into register words and unpacking words into bytes (00_scope.md R11). -/

namespace Sys2Proof.Machine

/-! ### The bytes of a word made of bytes -/

theorem byteOfWord_or (v w : Word) (j : Nat) : byteOfWord (v ||| w) j = byteOfWord v j ||| byteOfWord w j :=
  BitVec.extractLsb'_or ..

/-- A byte put at byte place `i` of a word is found at that place and at no other. -/
theorem byteOfWord_shiftLeft (b : Byte) (i j : Nat) (hj : j < 4) :
    byteOfWord (b.setWidth 32 <<< (8 * i)) j = if j = i then b else 0 := by
  ext t ht
  simp only [byteOfWord, BitVec.getElem_extractLsb', BitVec.getLsbD_shiftLeft, BitVec.getLsbD_setWidth]
  rcases Nat.lt_trichotomy j i with h | rfl | h
  · simp [h.ne, show 8 * j + t < 8 * i by omega]
  · simp [show 8 * j + t < 32 by omega, show t < 32 by omega, BitVec.getLsbD_eq_getElem ht]
  · simp [h.ne', BitVec.getLsbD_of_ge b (8 * j + t - 8 * i) (by omega)]

/-- The packing of R11 with each shift written as a byte place. -/
theorem wordAt_eq_or_shiftLeft {n : Nat} (a : Bytes n) (k : Nat) :
    wordAt a k = (byteAt a (4 * k)).setWidth 32 <<< (8 * 0) ||| (byteAt a (4 * k + 1)).setWidth 32 <<< (8 * 1) |||
      (byteAt a (4 * k + 2)).setWidth 32 <<< (8 * 2) ||| (byteAt a (4 * k + 3)).setWidth 32 <<< (8 * 3) := by
  rw [wordAt, Nat.mul_zero, BitVec.shiftLeft_zero]

/-- Byte `j` of word `k` is byte `4k + j` of the array (R11). -/
theorem byteOfWord_wordAt {n : Nat} (a : Bytes n) (k j : Nat) (hj : j < 4) :
    byteOfWord (wordAt a k) j = byteAt a (4 * k + j) := by
  simp only [wordAt_eq_or_shiftLeft, byteOfWord_or, byteOfWord_shiftLeft _ _ j hj]
  obtain rfl | rfl | rfl | rfl : j = 0 ∨ j = 1 ∨ j = 2 ∨ j = 3 := by omega
  all_goals simp

/-! ### Unpacking the words of an array -/

theorem unpackWord_wordAt {n : Nat} (a : Bytes n) (k : Nat) :
    unpackWord (wordAt a k) = (List.range' (4 * k) 4).map (byteAt a) := by
  simp [unpackWord, byteOfWord_wordAt, List.range'_succ]

/-- The first `m` words of an array unpack to its first `4m` bytes. -/
theorem unpack_map_wordAt {n : Nat} (a : Bytes n) (m : Nat) :
    unpack ((List.range m).map (wordAt a)) = (List.range (4 * m)).map (byteAt a) := by
  induction m with
  | zero => rfl
  | succ m ih =>
    calc unpack ((List.range (m + 1)).map (wordAt a))
      _ = unpack ((List.range m).map (wordAt a)) ++ unpackWord (wordAt a m) := by
        simp [unpack, List.range_succ]
      _ = (List.range (4 * m)).map (byteAt a) ++ (List.range' (4 * m) 4).map (byteAt a) := by
        rw [ih, unpackWord_wordAt]
      _ = (List.range (4 * (m + 1))).map (byteAt a) := by
        rw [← List.map_append, List.range_eq_range', List.range_eq_range', Nat.mul_succ, ← List.range'_append_1,
          Nat.zero_add]

theorem map_byteAt_range {n : Nat} (a : Bytes n) : (List.range n).map (byteAt a) = a.toList :=
  List.ext_getElem (by simp) fun i hi _ => by simp [show i < n by simpa using hi]

/-! ### Packing the bytes of words -/

theorem unpack_cons (w : Word) (ws : List Word) : unpack (w :: ws) = unpackWord w ++ unpack ws :=
  List.flatMap_cons

theorem unpackWord_getD (w : Word) (j : Nat) (hj : j < 4) : (unpackWord w).getD j 0 = byteOfWord w j := by
  obtain rfl | rfl | rfl | rfl : j = 0 ∨ j = 1 ∨ j = 2 ∨ j = 3 := by omega
  all_goals rfl

/-- Byte `4k + j` of unpacked words is byte `j` of word `k`. -/
theorem unpack_getD (ws : List Word) (k j : Nat) (hj : j < 4) :
    (unpack ws).getD (4 * k + j) 0 = byteOfWord (ws.getD k 0) j := by
  induction ws generalizing k with
  | nil => simp [unpack, byteOfWord]
  | cons w ws ih =>
    have len : (unpackWord w).length = 4 := rfl
    rw [unpack_cons]
    cases k with
    | zero =>
      rw [List.getD_append _ _ _ _ (by omega), Nat.mul_zero, Nat.zero_add, unpackWord_getD w j hj,
        List.getD_cons_zero]
    | succ k =>
      rw [List.getD_append_right _ _ _ _ (by omega), len, show 4 * (k + 1) + j - 4 = 4 * k + j by omega, ih,
        List.getD_cons_succ]

/-- Packing the bytes of a list of words gives each word back (R11). -/
theorem wordAt_padTo_unpack (ws : List Word) (k : Nat) (hk : k < ws.length) :
    wordAt (padTo (4 * ws.length) (unpack ws)) k = ws.getD k 0 := by
  have byte (j : Nat) (hj : j < 4) :
      byteAt (padTo (4 * ws.length) (unpack ws)) (4 * k + j) = byteOfWord (ws.getD k 0) j := by
    rw [byteAt_padTo _ _ _ (by omega), unpack_getD ws k j hj]
  rw [wordAt, byte 1 (by decide), byte 2 (by decide), byte 3 (by decide), ← Nat.add_zero (4 * k), byte 0 (by decide)]
  exact word_of_bytes _

end Sys2Proof.Machine

section

open Sys2Proof Sys2Proof.Machine

/-- Settles O4: each byte of a word is read off its place, and the two inverses are by induction on the words. -/
theorem packedBytes : Obligations.PackedBytes := by
  refine ⟨fun n a i _ => ?_, fun m a => ?_, wordAt_padTo_unpack⟩
  · have h := byteOfWord_wordAt a (i / 4) (i % 4) (Nat.mod_lt i (by decide))
    rwa [Nat.div_add_mod] at h
  · rw [unpack_map_wordAt, map_byteAt_range]

end
end

section
/-! A step in which the host writes to the bus, down to the command a write of `CMD` carries (40_control.md R202). -/

namespace Sys2Proof.Machine

theorem dispatchCommand_of_decode (w : Word) (i : Instr) (s : State) (h : decode w = .ok i) :
    dispatchCommand w s = exec i s := by
  rw [dispatchCommand, h]

theorem writeOffset_cmd (w : Word) (s : State) : writeOffset 0x008 w s = dispatchCommand w s := rfl

/-- The host's legal write is performed with the host already past it (R102, R104). -/
theorem hostStep_write (s : State) (off : BitVec 12) (v : Word)
    (hn : s.host.nextStmt = some (.bus (.write off .four v))) (ha : off.toNat % 4 = 0) :
    hostStep s = writeOffset off v (s.onHost .advance) := by
  have legal : (BusOp.write off .four v).aligned = true := by simp [BusOp.aligned, BusOp.size, BusOp.offset, ha]
  rw [hostStep, hn]
  simp only [performStmt, performBus, legal, if_true]

theorem step_of_host (s : State) (h : nextAgent s = .host) : step s = hostStep s.popSchedule := by
  rw [step, systemStep, h, agentStep]

/-- A step in which the host makes a legal write (R8, R102). -/
theorem step_write (s : State) (off : BitVec 12) (v : Word) (h : nextAgent s = .host)
    (hn : s.host.nextStmt = some (.bus (.write off .four v))) (ha : off.toNat % 4 = 0) :
    step s = writeOffset off v s.atWrite := by
  rw [step_of_host s h]
  exact hostStep_write s.popSchedule off v (by rwa [State.popSchedule_host]) ha

end Sys2Proof.Machine

section

open Sys2Proof Sys2Proof.Machine

/-- Settles O37: the step is the host's write of `CMD`, and the write dispatches the decoded command. -/
theorem stepRunsDecoded : Obligations.StepRunsDecoded := by
  intro s w i hagent hstmt hdecode
  calc step s
    _ = writeOffset 0x008 w s.atWrite := step_write s _ w hagent hstmt (by decide)
    _ = dispatchCommand w s.atWrite := writeOffset_cmd w _
    _ = exec i s.atWrite := dispatchCommand_of_decode w i _ hdecode

end
end

section
/-! What one step can do, as one inductive predicate: the state after a step, and who moved to reach it. -/

namespace Sys2Proof.Machine

/-! ### The command a word stands for -/

theorem word_eq_append_fields (w : Word) : w = mbzField w ++ opcodeField w :=
  calc w
    _ = w.extractLsb' 0 32 := BitVec.extractLsb'_eq_self.symm
    _ = mbzField w ++ opcodeField w :=
      (BitVec.extractLsb'_append_extractLsb'_eq_extractLsb' (start₁ := 0) (start₂ := 0 + 8) (len₂ := 24) rfl).symm

theorem opcodeField_of_decodeOpcode (op : Byte) (i : Instr) (h : decodeOpcode op = .ok i) :
    op = opcodeField (encode i) := by
  unfold decodeOpcode at h
  split at h <;> cases h
  all_goals exact BitVec.eq_of_toNat_eq ‹_›

/-- No word but a command's own decodes to it (R141). -/
theorem eq_encode_of_decode (w : Word) (i : Instr) (h : decode w = .ok i) : w = encode i := by
  unfold decode at h
  split at h
  next hm =>
    have hi : mbzField (encode i) = 0 := by cases i <;> rfl
    rw [word_eq_append_fields w, word_eq_append_fields (encode i), hm, hi, opcodeField_of_decodeOpcode _ i h]
  next => cases h

/-! ### Writes of the operand registers -/

/-- The state with each operand array of the host changed. -/
def State.mapOperands (key : Bytes 32 → Bytes 32) (iv din : Bytes 16 → Bytes 16) (ck : Bytes 32 → Bytes 32)
    (s : State) : State :=
  { s with key := key s.key, iv := iv s.iv, din := din s.din, ck := ck s.ck }

theorem setKeyWord_eq_mapOperands (s : State) (k : Nat) (v : Word) :
    s.setKeyWord k v = s.mapOperands (setWord · k v) id id id := rfl

theorem setIvWord_eq_mapOperands (s : State) (k : Nat) (v : Word) :
    s.setIvWord k v = s.mapOperands id (setWord · k v) id id := rfl

theorem setDinWord_eq_mapOperands (s : State) (k : Nat) (v : Word) :
    s.setDinWord k v = s.mapOperands id id (setWord · k v) id := rfl

theorem setCkWord_eq_mapOperands (s : State) (k : Nat) (v : Word) :
    s.setCkWord k v = s.mapOperands id id id (setWord · k v) := rfl

/-! ### The effects of a step -/

/-- The reset agent moves, or the host writes `SOFT_RESET` (R580, R221). -/
def resetMoves (s : State) : Prop := nextAgent s = .reset ∨ writesCommand s 0x00000001

/-- Everything a step from `s` can lead to, and what has to hold for it. -/
inductive StepEffect (s : State) : State → Prop
  /-- Nothing but the host and the schedule moves. -/
  | quiet (f : HostAgent → HostAgent) : StepEffect s (s.popSchedule.onHost f)
  /-- A completion with no command to take effect (log entry 5). -/
  | emptyCompletion (agent : nextAgent s = .engine) (busy : s.busy = true) (pend : s.pend = none) :
      StepEffect s s.popSchedule.finishCompletion
  | completion (c : LongCommand) (agent : nextAgent s = .engine) (busy : s.busy = true) (pend : s.pend = some c) :
      StepEffect s (effect c s.popSchedule).finishCompletion
  | reset (f : HostAgent → HostAgent) (moves : resetMoves s) : StepEffect s (s.popSchedule.onHost f).softReset
  | error (e : EngineError) : StepEffect s (s.atWrite.recordError e)
  | errClear (writes : writesCommand s 0x00000007) : StepEffect s s.atWrite.clearErrors
  | issue (c : LongCommand) (writes : writesCommand s (encode c.instr)) (idle : s.busy = false)
      (legal : s.legal c = true) : StepEffect s (s.atWrite.issue c)
  | acknowledge (v : Word) (agent : nextAgent s = .host)
      (writes : s.host.nextStmt = some (.bus (.write 0x01C .four v))) : StepEffect s (s.atWrite.ackInterrupts v)
  | enable (v : Word) : StepEffect s (s.atWrite.setIntEn v)
  /-- `KEY` and `IV` are written only while not locked (R214). -/
  | operands (key ck : Bytes 32 → Bytes 32) (iv din : Bytes 16 → Bytes 16)
      (lock : s.locked = true → key = id ∧ iv = id) : StepEffect s (s.atWrite.mapOperands key iv din ck)

theorem stepEffect_of_step {s t : State} (h : step s = .next t) : StepEffect s t := by
  have unlocked {P : Prop} (hl : s.locked = false) (hl' : s.locked = true) : P := by simp [hl] at hl'
  rcases step_effects s t h with ⟨f, rfl⟩ | ⟨_, _, rfl⟩ | ⟨ha, hb, hp, rfl⟩ | ⟨c, ha, hb, hp, rfl⟩ | ⟨ha, rfl⟩ |
    ⟨e, rfl⟩ | ⟨w, hw, hd, rfl⟩ | ⟨w, hw, hd, rfl⟩ | ⟨w, c, hw, hd, hb, hl, rfl⟩ | ⟨v, ha, hs, rfl⟩ | ⟨v, rfl⟩ |
    ⟨k, v, hl, rfl⟩ | ⟨k, v, hl, rfl⟩ | ⟨k, v, rfl⟩ | ⟨k, v, rfl⟩
  · exact .quiet f
  · exact .quiet id
  · exact .emptyCompletion ha hb hp
  · exact .completion c ha hb hp
  · exact .reset id (.inl ha)
  · exact .error e
  · rw [eq_encode_of_decode w _ hd] at hw
    exact .reset .advance (.inr hw)
  · rw [eq_encode_of_decode w _ hd] at hw
    exact .errClear hw
  · rw [eq_encode_of_decode w _ hd] at hw
    exact .issue c hw hb hl
  · exact .acknowledge v ha hs
  · exact .enable v
  · exact setKeyWord_eq_mapOperands s.atWrite k v ▸ .operands _ _ _ _ (unlocked hl)
  · exact setIvWord_eq_mapOperands s.atWrite k v ▸ .operands _ _ _ _ (unlocked hl)
  · exact setDinWord_eq_mapOperands s.atWrite k v ▸ .operands _ _ _ _ fun _ => ⟨rfl, rfl⟩
  · exact setCkWord_eq_mapOperands s.atWrite k v ▸ .operands _ _ _ _ fun _ => ⟨rfl, rfl⟩

end Sys2Proof.Machine
end

section
/-! The invariants of the engine (10_state.md R82): they hold at reset, each operation on the state keeps them, and so
every step does. -/

namespace Sys2Proof.Machine

/-! ### Words of flags -/

theorem errorBit_ne_zero (e : EngineError) : errorBit e ≠ 0 := by cases e <;> decide

theorem errorBit_not_reserved (e : EngineError) : errorBit e &&& ~~~errMask = 0 := by cases e <;> decide

/-- Setting bits that are not reserved keeps the reserved bits 0. -/
theorem reserved_or {v b mask : Word} (hv : v &&& ~~~mask = 0) (hb : b &&& ~~~mask = 0) :
    (v ||| b) &&& ~~~mask = 0 := by
  rw [BitVec.and_comm, BitVec.and_or_distrib_left, BitVec.and_comm _ v, BitVec.and_comm _ b, hv, hb, BitVec.or_self]

theorem reserved_masked (v mask : Word) : v &&& mask &&& ~~~mask = 0 := by
  simp [BitVec.and_assoc]

/-- A flag that has just been set is not 0. -/
theorem or_and_self (v b : Word) : (v ||| b) &&& b = b := by
  ext i hi
  simpa using Or.inr

namespace EngineInv

variable {s : State}

/-! ### Reset -/

theorem resetOf (alg : HashAlg) : EngineInv (State.resetOf alg) := by
  constructor <;> simp [State.resetOf, byteAt_zeros, hashInit_alg]

/-- No invariant speaks of the host, of the schedule or of the operand registers. -/
theorem onHost (h : EngineInv s) (f : HostAgent → HostAgent) : EngineInv (s.onHost f) := { h with }

theorem popSchedule (h : EngineInv s) : EngineInv s.popSchedule := { h with }

theorem softReset (s : State) : EngineInv s.softReset := { resetOf s.hashAlg with }

/-! ### Register writes and the error record -/

theorem mapOperands (h : EngineInv s) (key ck : Bytes 32 → Bytes 32) (iv din : Bytes 16 → Bytes 16) :
    EngineInv (s.mapOperands key iv din ck) := { h with }

theorem setIntEn (h : EngineInv s) (v : Word) : EngineInv (s.setIntEn v) :=
  { h with intEnReserved := reserved_masked v intMask }

theorem ackInterrupts (h : EngineInv s) (v : Word) : EngineInv (s.ackInterrupts v) :=
  { h with intStatusReserved := reserved_masked _ intMask }

theorem recordError (h : EngineInv s) (e : EngineError) : EngineInv (s.recordError e) :=
  { h with
    errflagsReserved := reserved_or h.errflagsReserved (errorBit_not_reserved e)
    intStatusReserved := reserved_or h.intStatusReserved (by decide)
    errcodeFlagged := by
      intro e' he
      obtain rfl : e = e' := by simpa using he
      rw [State.recordError_errflags, or_and_self]
      exact errorBit_ne_zero e
    noErrorNoFlag := by simp }

theorem clearErrors (h : EngineInv s) : EngineInv s.clearErrors :=
  { h with
    errflagsReserved := by simp
    errcodeFlagged := by simp
    noErrorNoFlag := by simp }

/-! ### Issue and the end of a completion -/

theorem issue (h : EngineInv s) (c : LongCommand) (hl : s.legal c = true) : EngineInv (s.issue c) :=
  { h with
    busyPend := by simp
    pendLegal := by
      intro c' hc
      obtain rfl : c = c' := by simpa using hc
      cases c <;> exact hl }

theorem finishCompletion (h : EngineInv s) : EngineInv s.finishCompletion :=
  { h with
    busyPend := by simp
    intStatusReserved := reserved_or h.intStatusReserved (by decide)
    pendLegal := by simp }

end EngineInv

/-- The state with the command in flight taken out: it still has the operand latches a completion reads. -/
def State.withoutPend (s : State) : State := { s with busy := false, pend := none }

theorem legal_withoutPend (c : LongCommand) (s : State) : s.withoutPend.legal c = s.legal c := by cases c <;> rfl

/-- The end of a completion overwrites `BUSY` and `PEND`, and no Completion block reads them (R207). -/
theorem finishCompletion_effect_withoutPend (c : LongCommand) (s : State) :
    (effect c s).finishCompletion = (effect c s.withoutPend).finishCompletion := by
  cases c with
  | initStream | decryptBlock | compare => rfl
  | decryptFinal =>
    have same : s.withoutPend.streamPlain = s.streamPlain := rfl
    simp only [effect, effectDecryptFinal, same]
    split <;> rfl
  | ckDecrypt =>
    have same : s.withoutPend.checksumSecond = s.checksumSecond := rfl
    simp only [effect, effectCkDecrypt, same]
    split <;> rfl

namespace EngineInv

variable {s : State}

theorem withoutPend (h : EngineInv s) : EngineInv s.withoutPend :=
  { h with
    busyPend := by simp [State.withoutPend]
    pendLegal := by simp [State.withoutPend] }

/-! ### The Completion blocks -/

theorem not_compared_of_stream (h : EngineInv s) (hs : s.sstate = .stream) : s.cmpValid ≠ true :=
  fun hc => by simpa [hs] using h.comparedDone hc

theorem digest_of_stream (h : EngineInv s) (hs : s.sstate = .stream) : s.digest = zeros 32 := by
  by_contra hd
  simpa [hs] using h.digestDone hd

theorem absorb (h : EngineInv s) (m : List Byte) : EngineInv (s.absorb m) :=
  { h with
    hbufLength := by
      rw [absorb_hbuf_length, h.hbufLength, State.absorb_hcount, BitVec.toNat_add, BitVec.toNat_ofNat]
      omega
    hashAlg := by rw [State.absorb_hstate, foldBlocks_alg, h.hashAlg, State.absorb_hashAlg] }

/-- `CHAIN`, `DOUT` and `DOUT_LEN` as a block command writes them (R285, R290). -/
theorem blockOutput (h : EngineInv s) (c d : Bytes 16) (n : Nat) (hn : n ≤ 16) (hd : ∀ i, n ≤ i → byteAt d i = 0) :
    EngineInv { s with chain := c, dout := d, doutLen := n } :=
  { h with
    doutLen := hn
    doutTail := hd }

/-- `DIGEST` and `SSTATE` as the end of the stream writes them (R290). -/
theorem closeStream (h : EngineInv s) (hp : s.pend = none) (hs : s.sstate = .stream) (d : Bytes 32)
    (hd : ∀ i, s.hashAlg.hashLen ≤ i → byteAt d i = 0) : EngineInv { s with digest := d, sstate := .done } :=
  { h with
    comparedDone := fun hc => absurd hc (h.not_compared_of_stream hs)
    digestDone := fun _ => rfl
    digestTail := hd
    pendLegal := by simp [hp] }

theorem initStream (h : EngineInv s) (hp : s.pend = none) : EngineInv (effectInitStream s) :=
  { h with
    doutLen := by simp
    matchCompared := by simp
    comparedDone := by simp
    hbufLength := by simp
    digestDone := by simp
    hashAlg := by simp [hashInit_alg]
    doutTail := by simp [byteAt_zeros]
    digestTail := by simp [byteAt_zeros]
    pendLegal := by simp [hp] }

theorem decryptBlock (h : EngineInv s) : EngineInv (effectDecryptBlock s) :=
  (h.blockOutput s.lDin s.streamPlain 16 le_rfl (byteAt_of_ge _)).absorb _

theorem finalGood (h : EngineInv s) (hp : s.pend = none) (hs : s.sstate = .stream) (m : List Byte)
    (hm : m.length ≤ 16) : EngineInv (finalGood m s) := by
  have absorbed := (h.blockOutput s.lDin (padTo 16 m) m.length hm (byteAt_padTo_tail 16 m)).absorb m
  refine absorbed.closeStream (by simpa using hp) (by simpa using hs) _ fun i hi =>
    byteAt_padTo_tail 32 _ i (le_trans (le_of_eq ?_) hi)
  rw [finalize_length, absorbed.hashAlg]

theorem finalBad (h : EngineInv s) (hp : s.pend = none) (hs : s.sstate = .stream) : EngineInv (finalBad s) :=
  recordError (s := { s with chain := s.lDin, dout := zeros 16, doutLen := 0, sstate := .error })
    { h.blockOutput s.lDin (zeros 16) 0 (Nat.zero_le 16) fun i _ => byteAt_zeros 16 i with
      comparedDone := fun hc => absurd hc (h.not_compared_of_stream hs)
      digestDone := fun hd => absurd (h.digest_of_stream hs) hd
      pendLegal := by simp [hp] } _

theorem decryptFinal (h : EngineInv s) (hp : s.pend = none) (hs : s.sstate = .stream) :
    EngineInv (effectDecryptFinal s) := by
  rcases effectDecryptFinal_cases s with ⟨_, e⟩ | ⟨_, e⟩ <;> rw [e]
  · exact h.finalGood hp hs _ (by simp)
  · exact h.finalBad hp hs

theorem checksumGood (h : EngineInv s) (hp : s.pend = none) (n : Nat) (hn : 1 ≤ n ∧ n ≤ 16) :
    EngineInv (checksumGood n s) :=
  { h with
    expLen := by simp; omega
    expValid := by simp; omega
    matchCompared := by simp
    comparedDone := by simp
    expTail := by
      intro i hi
      rw [checksumGood_expLen] at hi
      rw [checksumGood_exp]
      exact byteAt_padTo_tail _ _ _ ((List.length_take_le _ _).trans hi)
    pendLegal := by simp [hp] }

theorem checksumBad (h : EngineInv s) (hp : s.pend = none) : EngineInv (checksumBad s) :=
  recordError (s := { s.dropCompare with exp := zeros 32, expLen := 0, ckstate := .error })
    { h with
      expLen := .inl rfl
      expValid := by simp
      matchCompared := by simp
      comparedDone := by simp
      expTail := fun i _ => byteAt_zeros 32 i
      pendLegal := by simp [hp] } _

theorem ckDecrypt (h : EngineInv s) (hp : s.pend = none) : EngineInv (effectCkDecrypt s) := by
  rcases effectCkDecrypt_cases s with ⟨ok, e⟩ | ⟨_, e⟩ <;> rw [e]
  · simp only [pkcs7Ok, Bool.and_eq_true, decide_eq_true_eq] at ok
    exact h.checksumGood hp _ ok.1
  · exact h.checksumBad hp

theorem compare (h : EngineInv s) (hd : s.sstate = .done ∧ s.ckstate = .valid) : EngineInv (effectCompare s) :=
  { h with
    matchCompared := by simp
    comparedDone := by simpa using hd
    intStatusReserved := by
      rw [effectCompare_intStatus]
      split
      · exact h.intStatusReserved
      · exact reserved_or h.intStatusReserved (by decide) }

theorem effect (h : EngineInv s) (hp : s.pend = none) (c : LongCommand) (hl : s.legal c = true) :
    EngineInv (effect c s) := by
  cases c with
  | initStream => exact h.initStream hp
  | decryptBlock => exact h.decryptBlock
  | decryptFinal => exact h.decryptFinal hp (by simpa [State.legal] using hl)
  | ckDecrypt => exact h.ckDecrypt hp
  | compare => exact h.compare (by simpa [State.legal] using hl)

/-- The completion of the command in flight, which is legal by the invariants themselves. -/
theorem completion (h : EngineInv s) (c : LongCommand) (hp : s.pend = some c) :
    EngineInv (Machine.effect c s).finishCompletion := by
  rw [finishCompletion_effect_withoutPend]
  have hl : s.withoutPend.legal c = true := (legal_withoutPend c s).trans (h.pendLegal c hp)
  exact (h.withoutPend.effect rfl c hl).finishCompletion

theorem stepEffect {t : State} (h : EngineInv s) (e : StepEffect s t) : EngineInv t := by
  have hw : EngineInv s.atWrite := h.popSchedule.onHost _
  cases e with
  | quiet f => exact h.popSchedule.onHost f
  | emptyCompletion => exact h.popSchedule.finishCompletion
  | completion c _ _ pend => exact h.popSchedule.completion c pend
  | reset f => exact softReset _
  | error e => exact hw.recordError e
  | errClear => exact hw.clearErrors
  | issue c _ _ legal => exact hw.issue c (by cases c <;> exact legal)
  | acknowledge v => exact hw.ackInterrupts v
  | enable v => exact hw.setIntEn v
  | operands key ck iv din => exact hw.mapOperands key ck iv din

end EngineInv

end Sys2Proof.Machine

section

open Sys2Proof Sys2Proof.Machine

/-- Settles O40: the reset values of R85, one invariant after the other. -/
theorem invariantAtReset : Obligations.InvariantAtReset :=
  ⟨EngineInv.resetOf .sha1, EngineInv.resetOf⟩

/-- Settles O41: each thing a step can do keeps the invariants. -/
theorem invariantKept : Obligations.InvariantKept :=
  fun _ _ h e => h.stepEffect (stepEffect_of_step e)

end
end

section
/-! The register map and the access of each register at its offset (10_state.md R43, R70; 40_control.md R210, R216). -/

namespace Sys2Proof.Machine

/-! ### The map -/

/-- The register found at a word index has that index. -/
theorem offsetOf_of_regAtWord (n : Nat) (r : RegName) (h : regAtWord n = some r) : (offsetOf r).toNat = 4 * n := by
  revert h
  fun_cases regAtWord n
  all_goals rintro ⟨⟩
  all_goals
    simp only [offsetOf, BitVec.toNat_ofNat, BitVec.reduceToNat]
    omega

theorem regAt_eq_some_imp (off : BitVec 12) (r : RegName) (h : regAt off = some r) : off = offsetOf r := by
  unfold regAt at h
  split at h
  next ha =>
    have := offsetOf_of_regAtWord _ r h
    exact BitVec.eq_of_toNat_eq (by omega)
  next => cases h

@[simp] theorem regAt_offsetOf (r : RegName) : regAt (offsetOf r) = some r := by
  cases r with
  | key k | iv k | din k | dout k | ck k | exp k | digest k => revert k; decide
  | _ => rfl

theorem regAt_eq_some_iff (off : BitVec 12) (r : RegName) : regAt off = some r ↔ off = offsetOf r :=
  ⟨regAt_eq_some_imp off r, fun h => h ▸ regAt_offsetOf r⟩

/-- The word indices of the reserved offsets (R70). -/
theorem regAtWord_eq_none_iff (n : Nat) :
    regAtWord n = none ↔ n = 0x1F ∨ (0x31 ≤ n ∧ n ≤ 0x37) ∨ 0x40 ≤ n := by
  fun_cases regAtWord n
  all_goals
    simp only [reduceCtorEq, false_iff, true_iff]
    omega

theorem regAt_eq_none_iff (off : BitVec 12) (ha : off.toNat % 4 = 0) :
    regAt off = none ↔ off.toNat = 0x07C ∨ (0x0C4 ≤ off.toNat ∧ off.toNat ≤ 0x0DC) ∨ 0x100 ≤ off.toNat := by
  rw [regAt, if_pos ha, regAtWord_eq_none_iff]
  omega

/-! ### Access at an offset -/

@[simp] theorem readOffset_offsetOf (s : State) (r : RegName) : readOffset s (offsetOf r) = readRegister s r := by
  rw [readOffset, regAt_offsetOf]

theorem readOffset_of_reserved (s : State) (off : BitVec 12) (h : regAt off = none) : readOffset s off = 0 := by
  rw [readOffset, h]

@[simp] theorem writeOffset_offsetOf (r : RegName) (v : Word) (s : State) :
    writeOffset (offsetOf r) v s = writeRegister r v s := by
  rw [writeOffset, regAt_offsetOf]

/-- What an offset reads is what the register there reads, if there is one. -/
theorem readOffset_congr {s t : State} {off : BitVec 12}
    (h : ∀ r, off = offsetOf r → readRegister t r = readRegister s r) : readOffset t off = readOffset s off := by
  unfold readOffset
  cases hr : regAt off with
  | none => rfl
  | some r => exact h r (regAt_eq_some_imp off r hr)

/-! ### What reads back after an operand write -/

theorem wordAt_setWord {n : Nat} (a : Bytes n) (k j : Nat) (v : Word) (h : 4 * k + 3 < n) :
    wordAt (setWord a k v) j = if j = k then v else wordAt a j := by
  split
  next e => rw [e, wordAt_setWord_same a k v h]
  next e => exact wordAt_setWord_other a k j v e

/-- `KEY` is write-only (R60). -/
theorem readRegister_setKeyWord (s : State) (k : Nat) (v : Word) (r : RegName) :
    readRegister (s.setKeyWord k v) r = readRegister s r := by
  cases r <;> simp [readRegister, State.statusWord, State.errBitSet]

theorem readRegister_setIvWord (s : State) (k : Fin 4) (v : Word) (r : RegName) :
    readRegister (s.setIvWord k.val v) r = if r = .iv k then v else readRegister s r := by
  cases r with
  | iv j => simp [readRegister, wordAt_setWord s.iv k.val j.val v (by omega), Fin.ext_iff]
  | _ => simp [readRegister, State.statusWord, State.errBitSet]

theorem readRegister_setDinWord (s : State) (k : Fin 4) (v : Word) (r : RegName) :
    readRegister (s.setDinWord k.val v) r = if r = .din k then v else readRegister s r := by
  cases r with
  | din j => simp [readRegister, wordAt_setWord s.din k.val j.val v (by omega), Fin.ext_iff]
  | _ => simp [readRegister, State.statusWord, State.errBitSet]

theorem readRegister_setCkWord (s : State) (k : Fin 8) (v : Word) (r : RegName) :
    readRegister (s.setCkWord k.val v) r = if r = .ck k then v else readRegister s r := by
  cases r with
  | ck j => simp [readRegister, wordAt_setWord s.ck k.val j.val v (by omega), Fin.ext_iff]
  | _ => simp [readRegister, State.statusWord, State.errBitSet]

/-- A write that changes one register alone, as the registers read, changes one offset alone. -/
theorem readOffset_of_written {s t : State} {r : RegName} {v : Word}
    (h : ∀ r', readRegister t r' = if r' = r then v else readRegister s r') :
    readOffset t (offsetOf r) = v ∧ ∀ off, off ≠ offsetOf r → readOffset t off = readOffset s off := by
  refine ⟨by rw [readOffset_offsetOf, h, if_pos rfl], fun off hoff => readOffset_congr fun r' hr => ?_⟩
  rw [h, if_neg]
  rintro rfl
  exact hoff hr

theorem lockChecked_of_unlocked (f : State → State) (s : State) (h : s.locked = false) : lockChecked f s = f s := by
  simp [lockChecked, h]

/-! ### The interrupt line -/

theorem irq_eq_true_iff (s : State) :
    s.irq = true ↔ ∃ n < 3, s.intStatus.getLsbD n = true ∧ s.intEn.getLsbD n = true := by
  have zero_iff : (s.intStatus &&& s.intEn).extractLsb' 0 3 = 0 ↔
      ∀ n < 3, ¬(s.intStatus.getLsbD n = true ∧ s.intEn.getLsbD n = true) := by
    rw [BitVec.eq_of_getLsbD_eq_iff]
    simp +contextual
  rw [State.irq, bne_iff_ne, ne_eq, zero_iff]
  push Not
  rfl

end Sys2Proof.Machine

section

open Sys2Proof Sys2Proof.Machine

/-- Settles O3: the map and its inverse row by row. -/
theorem registerOffsets : Obligations.RegisterOffsets :=
  ⟨regAt_eq_some_iff, regAt_eq_none_iff⟩

/-- Settles O29: each write that does anything is at the offset of a register that takes writes. -/
theorem readOnlyAndReserved : Obligations.ReadOnlyAndReserved := by
  intro s off v ha
  refine ⟨fun hoff => ?_, fun hoff => readOffset_of_reserved s off ((regAt_eq_none_iff off ha).mpr hoff)⟩
  have other (r : RegName) (hr : regAt off = some r) : off.toNat = (offsetOf r).toNat :=
    congrArg BitVec.toNat (regAt_eq_some_imp off r hr)
  rcases writeOffset_cases off v s with e | ⟨hr, _⟩ | ⟨hr, _⟩ | ⟨hr, _⟩ | ⟨k, hr, _⟩ | ⟨k, hr, _⟩ | ⟨k, hr, _⟩ |
    ⟨k, hr, _⟩
  · exact e
  all_goals
    have h := other _ hr
    simp only [offsetOf, BitVec.toNat_ofNat, BitVec.reduceToNat] at h
    omega

/-- Settles O32: a write of one operand word changes what that word's own register reads. -/
theorem writesReadBack : Obligations.WritesReadBack := by
  intro s t r v h
  rw [writeOffset_offsetOf] at h
  refine ⟨?_, ?_⟩
  · rintro (⟨⟨k, rfl⟩, hl⟩ | ⟨k, rfl⟩ | ⟨k, rfl⟩) <;> injection h with h <;> subst h
    · rw [lockChecked_of_unlocked _ s hl]
      exact readOffset_of_written (readRegister_setIvWord s k v)
    · exact readOffset_of_written (readRegister_setDinWord s k v)
    · exact readOffset_of_written (readRegister_setCkWord s k v)
  · rintro ⟨⟨k, rfl⟩, hl⟩ off
    injection h with h
    subst h
    rw [lockChecked_of_unlocked _ s hl]
    exact readOffset_congr fun r _ => readRegister_setKeyWord s k v r

/-- Settles O34: `irq` is the three low bits of the pending and enabled sources, bit by bit. -/
theorem interruptLine : Obligations.InterruptLine := irq_eq_true_iff

end
end

section
/-! Who may change what over a step (10_state.md R49 to R59, R75, R80): the frames of the Completion blocks, and from
them those of every step. -/

namespace Sys2Proof.Machine

/-! ### The branches of the Completion blocks -/

/-- What the Completion block of a command makes of `s`, branch by branch. -/
inductive CompletionBlock (s : State) : LongCommand → State → Prop
  | initStream : CompletionBlock s .initStream (effectInitStream s)
  | decryptBlock : CompletionBlock s .decryptBlock (effectDecryptBlock s)
  | finalGood (m : List Byte) : CompletionBlock s .decryptFinal (finalGood m s)
  | finalBad : CompletionBlock s .decryptFinal (finalBad s)
  | checksumGood (n : Nat) : CompletionBlock s .ckDecrypt (checksumGood n s)
  | checksumBad : CompletionBlock s .ckDecrypt (checksumBad s)
  | compare : CompletionBlock s .compare (effectCompare s)

theorem completionBlock_effect (s : State) (c : LongCommand) : CompletionBlock s c (effect c s) := by
  cases c with
  | initStream => exact .initStream
  | decryptBlock => exact .decryptBlock
  | decryptFinal =>
    rcases effectDecryptFinal_cases s with ⟨_, e⟩ | ⟨_, e⟩ <;> rw [effect, e]
    · exact .finalGood _
    · exact .finalBad
  | ckDecrypt =>
    rcases effectCkDecrypt_cases s with ⟨_, e⟩ | ⟨_, e⟩ <;> rw [effect, e]
    · exact .checksumGood _
    · exact .checksumBad
  | compare => exact .compare

namespace CompletionBlock

variable {s u : State} {c : LongCommand}

theorem operands (h : CompletionBlock s c u) : u.key = s.key ∧ u.iv = s.iv := by cases h <;> simp

/-- No completion clears an error flag (R57). -/
theorem errflags_kept (h : CompletionBlock s c u) {n : Nat} (hn : s.errflags.getLsbD n = true) :
    u.errflags.getLsbD n = true := by
  cases h <;> simp [hn]

/-- No completion clears an interrupt bit (R59). -/
theorem intStatus_kept (h : CompletionBlock s c u) {n : Nat} (hn : s.intStatus.getLsbD n = true) :
    u.intStatus.getLsbD n = true := by
  cases h with
  | compare =>
    rw [effectCompare_intStatus]
    split <;> simp [hn]
  | _ => simp [hn]

end CompletionBlock

/-! ### Frames of a step -/

namespace StepEffect

variable {s t : State}

/-- The result registers change at a completion and by a reset alone (R206, R594). -/
theorem results (h : StepEffect s t) :
    SameResults t s ∨
    (∃ c u, nextAgent s = .engine ∧ s.busy = true ∧ s.pend = some c ∧ CompletionBlock s.popSchedule c u ∧
      t = u.finishCompletion) ∨
    (resetMoves s ∧ ∃ u : State, t = u.softReset) := by
  cases h with
  | completion c agent busy pend =>
    exact .inr (.inl ⟨c, _, agent, busy, pend, completionBlock_effect _ c, rfl⟩)
  | reset f moves => exact .inr (.inr ⟨moves, _, rfl⟩)
  | operands => exact .inl ⟨⟨rfl, rfl, rfl, rfl, rfl, rfl, rfl, rfl, rfl⟩, rfl, rfl, rfl, rfl, rfl⟩
  | quiet | emptyCompletion | error | errClear | issue | acknowledge | enable =>
    exact .inl ⟨by constructor <;> simp, by simp, by simp, by simp, by simp, by simp⟩

/-- The steps that can clear an error flag (R57). -/
theorem errflags_kept (h : StepEffect s t) {n : Nat} (hn : s.errflags.getLsbD n = true) :
    t.errflags.getLsbD n = true ∨ writesCommand s 0x00000007 ∨ resetMoves s := by
  cases h with
  | completion c => exact .inl ((completionBlock_effect s.popSchedule c).errflags_kept hn)
  | reset _ moves => exact .inr (.inr moves)
  | errClear writes => exact .inr (.inl writes)
  | error e => exact .inl (by simp [hn])
  | quiet | emptyCompletion | issue | acknowledge | enable | operands => exact .inl hn

/-- An acknowledged interrupt bit that is cleared was written 1 (R59). -/
theorem written_of_acknowledged {x v : Word} {n : Nat} (hlt : n < 3) (hn : x.getLsbD n = true)
    (ht : (x &&& ~~~v &&& intMask).getLsbD n ≠ true) : v.getLsbD n = true := by
  have mask : intMask.getLsbD n = true := by interval_cases n <;> rfl
  have hw : n < 32 := by omega
  simpa [hn, mask, hw] using ht

/-- The steps that can clear an interrupt bit (R59). -/
theorem intStatus_kept (h : StepEffect s t) {n : Nat} (hlt : n < 3) (hn : s.intStatus.getLsbD n = true) :
    t.intStatus.getLsbD n = true ∨
    (∃ v : Word, nextAgent s = .host ∧ s.host.nextStmt = some (.bus (.write 0x01C .four v)) ∧ v.getLsbD n = true) ∨
    resetMoves s := by
  cases h with
  | emptyCompletion => exact .inl (by simp [hn])
  | completion c =>
    have kept := (completionBlock_effect s.popSchedule c).intStatus_kept hn
    exact .inl (by simp [kept])
  | reset _ moves => exact .inr (.inr moves)
  | error e => exact .inl (by simp [hn])
  | acknowledge v agent writes =>
    exact or_iff_not_imp_left.mpr fun ht => .inl ⟨v, agent, writes, written_of_acknowledged hlt hn ht⟩
  | quiet | errClear | issue | enable | operands => exact .inl hn

end StepEffect

/-! ### A completion and the operand registers -/

theorem finalGood_mapOperands (m : List Byte) (key ck : Bytes 32 → Bytes 32) (iv din : Bytes 16 → Bytes 16)
    (s : State) : finalGood m (s.mapOperands key iv din ck) = (finalGood m s).mapOperands key iv din ck := by
  simp only [finalGood, State.absorb, State.finalize, State.hashTail, State.mapOperands]

/-- No Completion block reads or writes `KEY`, `IV`, `DIN` or `CK` (R76). -/
theorem effect_mapOperands (c : LongCommand) (key ck : Bytes 32 → Bytes 32) (iv din : Bytes 16 → Bytes 16) (s : State) :
    effect c (s.mapOperands key iv din ck) = (effect c s).mapOperands key iv din ck := by
  cases c with
  | initStream | compare => rfl
  | decryptBlock => simp only [effect, effectDecryptBlock, State.absorb, State.streamPlain, State.mapOperands]
  | decryptFinal =>
    have same : (s.mapOperands key iv din ck).streamPlain = s.streamPlain := rfl
    simp only [effect, effectDecryptFinal, same]
    split
    · exact finalGood_mapOperands ..
    · rfl
  | ckDecrypt =>
    have same : (s.mapOperands key iv din ck).checksumSecond = s.checksumSecond := rfl
    simp only [effect, effectCkDecrypt, same]
    split <;> rfl

theorem complete_mapOperands (key ck : Bytes 32 → Bytes 32) (iv din : Bytes 16 → Bytes 16) (s : State) :
    complete (s.mapOperands key iv din ck) = (complete s).mapOperands key iv din ck := by
  have busy : (s.mapOperands key iv din ck).busy = s.busy := rfl
  have pend : (s.mapOperands key iv din ck).pend = s.pend := rfl
  unfold complete effectPending
  rw [busy, pend]
  cases s.busy with
  | false => rfl
  | true =>
    cases s.pend with
    | none => rfl
    | some c => exact congrArg State.finishCompletion (effect_mapOperands c key ck iv din s)

/-! ### A command word put before the host's next statement -/

theorem nextStmt_insertNext (h : HostAgent) (st : Stmt) : (h.insertNext st).nextStmt = some st := by
  simp [HostAgent.insertNext, HostAgent.nextStmt]

theorem decode_commandWord (nbits w : Nat) (i : Instr) (h : decodeTableWord nbits w = some i) :
    decode (commandWord nbits w) = .ok i := by
  unfold decodeTableWord at h
  split at h
  next =>
    cases hd : decode (commandWord nbits w) with
    | ok j =>
      rw [hd] at h
      exact congrArg Except.ok (Option.some.inj h)
    | error e =>
      rw [hd] at h
      cases h
  next => cases h

end Sys2Proof.Machine

section

open Sys2Proof Sys2Proof.Machine

/-- Settles O27: a completion commutes with any change of the operand registers. -/
theorem operandsLatched : Obligations.OperandsLatched := by
  intro s k v
  simp only [setKeyWord_eq_mapOperands, setIvWord_eq_mapOperands, setDinWord_eq_mapOperands, setCkWord_eq_mapOperands,
    complete_mapOperands, and_self]

/-- Settles O42: of all a step can do, the issue alone sets `BUSY`, and a completion or a reset alone clears it. -/
theorem busyWriters : Obligations.BusyWriters := by
  intro s t h
  refine ⟨fun before after => ?_, fun before after => ?_⟩
  · cases stepEffect_of_step h with
    | issue c writes _ legal => exact ⟨c, writes, legal, rfl⟩
    | emptyCompletion | completion | reset => simp at after
    | operands => cases before.symm.trans after
    | quiet | error | errClear | acknowledge | enable => simp [before] at after
  · cases stepEffect_of_step h with
    | emptyCompletion agent | completion _ agent => exact .inl agent
    | reset _ moves => exact .inr moves
    | issue => simp at after
    | operands => cases before.symm.trans after
    | quiet | error | errClear | acknowledge | enable => simp [before] at after

/-- Settles O43, branch by branch of the command that completes. -/
theorem streamStateWriters : Obligations.StreamStateWriters := by
  intro s t h changed
  rcases (stepEffect_of_step h).results with same | ⟨c, u, agent, busy, pend, block, rfl⟩ | ⟨moves, u, rfl⟩
  · exact absurd same.stream.sstate changed
  · cases block with
    | initStream => exact .inl ⟨agent, busy, pend, rfl⟩
    | finalGood => exact .inr (.inl ⟨agent, busy, pend, .inl rfl⟩)
    | finalBad => exact .inr (.inl ⟨agent, busy, pend, .inr rfl⟩)
    | decryptBlock | checksumGood | checksumBad | compare => simp at changed
  · exact .inr (.inr ⟨moves, rfl⟩)

/-- Settles O44, branch by branch of the command that completes. -/
theorem checksumStateWriters : Obligations.ChecksumStateWriters := by
  intro s t h
  rcases (stepEffect_of_step h).results with same | ⟨c, u, agent, _, pend, block, rfl⟩ | ⟨moves, u, rfl⟩
  · exact ⟨fun changed => absurd same.ckstate changed, fun before after => by simp [same.cmpValid, before] at after,
      fun before after => by simp [same.cmpValid, before] at after⟩
  · refine ⟨fun changed => .inl ⟨agent, ?_⟩, fun before after => ⟨agent, ?_⟩, fun before after => .inl ⟨agent, ?_⟩⟩
    · cases block with
      | checksumGood => exact ⟨pend, .inl rfl⟩
      | checksumBad => exact ⟨pend, .inr rfl⟩
      | initStream | decryptBlock | finalGood | finalBad | compare => simp at changed
    · cases block with
      | compare => exact pend
      | _ => simp [before] at after
    · cases block with
      | initStream => exact .inl pend
      | checksumGood | checksumBad => exact .inr pend
      | _ => simp [before] at after
  · exact ⟨fun _ => .inr ⟨moves, rfl⟩, fun _ after => by simp at after, fun _ _ => .inr moves⟩

/-- Settles O45, branch by branch of the command that completes. -/
theorem streamInternalsWriters : Obligations.StreamInternalsWriters := by
  intro s t h
  rcases (stepEffect_of_step h).results with same | ⟨c, u, agent, busy, pend, block, rfl⟩ | ⟨moves, u, rfl⟩
  · exact ⟨fun changed => absurd same.stream.chain changed,
      fun changed => absurd ⟨same.stream.hstate, same.stream.hbuf, same.stream.hcount⟩ changed⟩
  · cases block with
    | initStream => exact ⟨fun _ => .inl ⟨agent, busy, pend, rfl⟩, fun _ => .inl ⟨agent, busy, .inl pend⟩⟩
    | decryptBlock =>
      exact ⟨fun _ => .inr (.inl ⟨agent, busy, .inl pend, rfl⟩), fun _ => .inl ⟨agent, busy, .inr (.inl pend)⟩⟩
    | finalGood | finalBad =>
      exact ⟨fun _ => .inr (.inl ⟨agent, busy, .inr pend, rfl⟩), fun _ => .inl ⟨agent, busy, .inr (.inr pend)⟩⟩
    | checksumGood | checksumBad | compare =>
      exact ⟨fun changed => absurd rfl changed, fun changed => absurd ⟨rfl, rfl, rfl⟩ changed⟩
  · exact ⟨fun _ => .inr (.inr ⟨moves, rfl⟩), fun _ => .inr moves⟩

/-- Settles O47: but for the clearing writes and the resets, a step keeps the bits or sets more. -/
theorem stickyBits : Obligations.StickyBits := by
  intro s t n h
  have e := stepEffect_of_step h
  refine ⟨fun before after => ?_, fun hlt before after => ?_⟩
  · exact (e.errflags_kept before).resolve_left (by simp [after])
  · exact (e.intStatus_kept hlt before).resolve_left (by simp [after])

/-- Settles O48: an operand write that reaches `KEY` or `IV` was made in a state that is not locked. -/
theorem keyHeldWhileLocked : Obligations.KeyHeldWhileLocked := by
  intro s t h locked changed
  cases stepEffect_of_step h with
  | reset _ moves => exact moves
  | completion c => exact absurd (completionBlock_effect s.popSchedule c).operands changed
  | operands key ck iv din lock =>
    obtain ⟨rfl, rfl⟩ := lock locked
    exact absurd ⟨rfl, rfl⟩ changed
  | quiet | emptyCompletion | error | errClear | issue | acknowledge | enable => simp at changed

/-- Settles O38: the word put is the host's next write of `CMD`, and the host moves next. -/
theorem fetchWordRuns : Obligations.FetchWordRuns := by
  intro s nbits w i h
  refine ⟨_, stepRunsDecoded (s.withFetchWord nbits w) (commandWord nbits w) i rfl ?_ (decode_commandWord nbits w i h)⟩
  exact nextStmt_insertNext s.host (stmtWr .cmd (commandWord nbits w))

end
end

section
/-! How a bus access is answered and how a step can end (20_memory.md R101 to R110, 60_exceptions.md R534, R535). -/

namespace Sys2Proof.Machine

/-! ### The response of the bus port -/

/-- The one legal form of an access (R104, R108). -/
theorem aligned_iff (b : BusOp) : b.aligned = true ↔ b.size = .four ∧ b.offset.toNat % 4 = 0 := by
  rw [BusOp.aligned, Bool.and_eq_true, beq_iff_eq, beq_iff_eq]

theorem aligned_eq_false_iff (b : BusOp) : b.aligned = false ↔ b.size ≠ .four ∨ b.offset.toNat % 4 ≠ 0 := by
  rw [← Bool.not_eq_true, aligned_iff, not_and_or]

theorem busResponse_err (d : Word) (b : BusOp) (s : State) : (busResponse false d b s).err = !b.aligned := rfl

theorem busResponse_rdata_read (d : Word) (off : BitVec 12) (size : BusSize) (s : State) :
    (busResponse false d (.read off size) s).rdata =
      if (BusOp.read off size).aligned then readOffset s off else 0 := rfl

/-! ### The outcome of a step -/

/-- A choice between two next states is a next state. -/
theorem ite_goes_on {p : Prop} [Decidable p] (t u : State) :
    ∃ v, (if p then .next t else .next u : Host.Outcome State Fault Refusal) = .next v :=
  ⟨_, (apply_ite Host.Outcome.next p t u).symm⟩

theorem exec_goes_on (i : Instr) (s : State) : ∃ t, exec i s = .next t := by
  cases i with
  | nop => exact ⟨_, exec_nop s⟩
  | softReset => exact ⟨_, exec_softReset s⟩
  | errClear => exact ⟨_, exec_errClear s⟩
  | initStream => exact ⟨_, exec_longCommand .initStream s⟩
  | decryptBlock => exact ⟨_, exec_longCommand .decryptBlock s⟩
  | decryptFinal => exact ⟨_, exec_longCommand .decryptFinal s⟩
  | ckDecrypt => exact ⟨_, exec_longCommand .ckDecrypt s⟩
  | compare => exact ⟨_, exec_longCommand .compare s⟩

theorem dispatchCommand_goes_on (w : Word) (s : State) : ∃ t, dispatchCommand w s = .next t := by
  rcases dispatchCommand_cases w s with ⟨i, _, e⟩ | ⟨_, _, e⟩
  · rw [e]
    exact exec_goes_on i s
  · exact ⟨_, e⟩

/-- A write at an aligned offset, whatever register answers there, is no fault. -/
theorem writeOffset_goes_on (off : BitVec 12) (v : Word) (s : State) : ∃ t, writeOffset off v s = .next t := by
  rcases writeOffset_cases off v s with e | ⟨_, e⟩ | ⟨_, e⟩ | ⟨_, e⟩ | ⟨_, _, e⟩ | ⟨_, _, e⟩ | ⟨_, _, e⟩ | ⟨_, _, e⟩
  case inr.inl =>
    rw [e]
    exact dispatchCommand_goes_on v s
  all_goals exact ⟨_, e⟩

theorem performStmt_read (off : BitVec 12) (size : BusSize) (s : State)
    (ha : (BusOp.read off size).aligned = true) :
    performStmt (.bus (.read off size)) s = .next (s.onHost (.record (readOffset s off))) := by
  rw [performStmt, if_pos ha]

theorem performStmt_write (off : BitVec 12) (size : BusSize) (v : Word) (s : State)
    (ha : (BusOp.write off size v).aligned = true) :
    performStmt (.bus (.write off size v)) s = writeOffset off v s := by
  rw [performStmt, performBus, if_pos ha]

/-- The bus error of R104. -/
theorem performStmt_busError (b : BusOp) (s : State) (ha : b.aligned = false) :
    performStmt (.bus b) s = .fault (.busError b) := by
  cases b <;> simp [performStmt, performBus, ha]

theorem performStmt_bus_goes_on (b : BusOp) (s : State) (ha : b.aligned = true) :
    ∃ t, performStmt (.bus b) s = .next t := by
  cases b with
  | read off size => exact ⟨_, performStmt_read off size s ha⟩
  | write off size v =>
    rw [performStmt_write off size v s ha]
    exact writeOffset_goes_on off v s

/-- Every statement goes on but a bus access of another size or alignment. -/
theorem performStmt_outcome (st : Stmt) (s : State) :
    (∃ t, performStmt st s = .next t) ∨
    ∃ b, st = .bus b ∧ b.aligned = false ∧ performStmt st s = .fault (.busError b) := by
  cases st with
  | bus b =>
    cases ha : b.aligned with
    | true => exact .inl (performStmt_bus_goes_on b s ha)
    | false => exact .inr ⟨b, rfl, ha, performStmt_busError b s ha⟩
  | bnz | failIf | waitIrq => exact .inl (ite_goes_on ..)
  | label | fail | collect | emit | emitLen | print | report => exact .inl ⟨_, rfl⟩

theorem hostStep_stmt (s : State) (st : Stmt) (hn : s.host.nextStmt = some st) :
    hostStep s = performStmt st (s.onHost .advance) := by
  rw [hostStep, hn]

theorem hostStep_outcome (s : State) :
    (∃ t, hostStep s = .next t) ∨
    ∃ b, s.host.nextStmt = some (.bus b) ∧ b.aligned = false ∧ hostStep s = .fault (.busError b) := by
  cases hn : s.host.nextStmt with
  | none => exact .inl ⟨s, by rw [hostStep, hn]⟩
  | some st =>
    rw [hostStep_stmt s st hn]
    rcases performStmt_outcome st (s.onHost .advance) with next | ⟨b, rfl, ha, e⟩
    · exact .inl next
    · exact .inr ⟨b, rfl, ha, e⟩

/-- A step in which the host moves performs its next statement (R8, R150). -/
theorem step_stmt (s : State) (st : Stmt) (h : nextAgent s = .host) (hn : s.host.nextStmt = some st) :
    step s = performStmt st s.atWrite := by
  rw [step_of_host s h]
  exact hostStep_stmt s.popSchedule st (by rwa [State.popSchedule_host])

/-- The two ways a step can end: it goes on, or the host's own access is a bus error (R535). -/
theorem step_outcome (s : State) :
    (∃ t, step s = .next t) ∨
    nextAgent s = .host ∧ ∃ b, s.host.nextStmt = some (.bus b) ∧ b.aligned = false ∧ step s = .fault (.busError b) := by
  cases ha : nextAgent s with
  | host =>
    rw [step_of_host s ha]
    rcases hostStep_outcome s.popSchedule with next | ⟨b, hn, hb, e⟩
    · exact .inl next
    · exact .inr ⟨rfl, b, by rwa [State.popSchedule_host] at hn, hb, e⟩
  | engine => exact .inl ⟨_, by rw [step, systemStep, ha, agentStep]⟩
  | reset => exact .inl ⟨_, by rw [step, systemStep, ha, agentStep]⟩

/-! ### Reads and the host -/

/-- No register shows anything of the host or of the schedule. -/
theorem readRegister_atWrite (s : State) (r : RegName) : readRegister s.atWrite r = readRegister s r := by
  cases r <;> simp [readRegister, State.statusWord, State.errBitSet]

theorem readOffset_atWrite (s : State) (off : BitVec 12) : readOffset s.atWrite off = readOffset s off :=
  readOffset_congr fun r _ => readRegister_atWrite s r

end Sys2Proof.Machine

section

open Sys2Proof Sys2Proof.Machine

/-- Settles O35: the port's answer is read off `aligned`, and the rest off the two ways a step can end. -/
theorem busErrors : Obligations.BusErrors := by
  refine ⟨fun s b d bad => ?_, fun s b d size offset => ?_, fun s f h => ?_, fun s r h => ?_⟩
  · have ha : b.aligned = false := (aligned_eq_false_iff b).mpr bad
    refine ⟨by simp [busResponse_err, ha], ?_, fun agent stmt => ?_⟩
    · rintro off size rfl
      simp [busResponse_rdata_read, ha]
    · rw [step_stmt s _ agent stmt, performStmt_busError b _ ha]
  · have ha : b.aligned = true := (aligned_iff b).mpr ⟨size, offset⟩
    refine ⟨by simp [busResponse_err, ha], ?_⟩
    rintro off rfl
    simp [busResponse_rdata_read, ha]
  · rcases step_outcome s with ⟨t, e⟩ | ⟨agent, b, stmt, ha, e⟩ <;> rw [e] at h <;> cases h
    exact ⟨agent, b, rfl, stmt, (aligned_eq_false_iff b).mp ha⟩
  · rcases step_outcome s with ⟨t, e⟩ | ⟨_, b, _, _, e⟩ <;> rw [e] at h <;> cases h

/-- Settles O36: the step performs the read, which touches the host's trace alone. -/
theorem readsArePure : Obligations.ReadsArePure := by
  intro s off offset agent stmt
  have ha : (BusOp.read off .four).aligned = true := (aligned_iff _).mpr ⟨rfl, offset⟩
  calc step s
    _ = performStmt (.bus (.read off .four)) s.atWrite := step_stmt s _ agent stmt
    _ = .next (s.atWrite.onHost (.record (readOffset s.atWrite off))) := performStmt_read off .four _ ha
    _ = .next (s.atWrite.onHost (.record (readOffset s off))) := by rw [readOffset_atWrite]

end
end

section
/-! The command table read both ways (30_encoding.md R141), and what the lines of the host notation do: the `BNZ` of a
`WAIT` and the bus writes of the four load lines (R150, R151). -/

namespace Sys2Proof.Machine

/-! ### The command table -/

@[simp] theorem decode_encode (i : Instr) : decode (encode i) = .ok i := by cases i <;> rfl

theorem decode_eq_ok_iff (w : Word) (i : Instr) : decode w = .ok i ↔ w = encode i :=
  ⟨eq_encode_of_decode w i, fun h => h ▸ decode_encode i⟩

/-! ### `STATUS.BUSY` and the jump that polls it -/

theorem flagAt_getLsbD_zero (b : Bool) (n : Nat) : (flagAt b n).getLsbD 0 = (b && n == 0) := by
  cases b with
  | false => simp [flagAt]
  | true =>
    rw [flagAt, if_pos rfl, BitVec.natCast_eq_ofNat, BitVec.getLsbD_ofNat, Nat.testBit_shiftLeft]
    cases n <;> simp

/-- `BUSY` is bit 0 of `STATUS` (R48). -/
theorem statusWord_getLsbD_zero (s : State) : s.statusWord.getLsbD 0 = s.busy := by
  simp only [State.statusWord, BitVec.getLsbD_or, BitVec.getLsbD_shiftLeft, flagAt_getLsbD_zero]
  simp

theorem readStatus_and_one_eq_zero_iff (s : State) : readRegister s .status &&& 0x1 = 0 ↔ s.busy = false := by
  have masked : readRegister s .status &&& 0x1 = (BitVec.ofBool s.busy).setWidth 32 := by
    rw [← statusWord_getLsbD_zero s]
    exact BitVec.and_one_eq_setWidth_ofBool_getLsbD
  rw [masked]
  cases s.busy <;> decide

theorem performStmt_bnz_of_zero {s : State} {r : RegName} {mask : Word} (l : Label)
    (h : readRegister s r &&& mask = 0) : performStmt (.bnz r mask l) s = .next s := by
  rw [performStmt, if_pos h]

theorem performStmt_bnz_of_ne_zero {s : State} {r : RegName} {mask : Word} (l : Label)
    (h : readRegister s r &&& mask ≠ 0) : performStmt (.bnz r mask l) s = .next (s.onHost (.goto l)) := by
  rw [performStmt, if_neg h]

/-- A label that the program defines is where a jump to it goes (R218). -/
theorem getElem?_goto_pc {h : HostAgent} {l : Label} (hl : .label l ∈ h.program) :
    h.program[(h.goto l).pc]? = some (.label l) := by
  have found : (h.goto l).pc < h.program.length := List.findIdx_lt_length_of_exists ⟨_, hl, beq_self_eq_true _⟩
  rw [List.getElem?_eq_getElem found]
  exact congrArg some (eq_of_beq (List.findIdx_getElem (w := found)))

/-! ### The words of an array written one after the other -/

/-- A word of `b` written into `a` brings the bytes that `b` has there. -/
theorem byteAt_setWord_wordAt {n : Nat} (a b : Bytes n) (k i : Nat) (hi : i < n) :
    byteAt (setWord a k (wordAt b k)) i = if i / 4 = k then byteAt b i else byteAt a i := by
  rw [byteAt_setWord a k _ i hi, byteOfWord_wordAt b k _ (Nat.mod_lt i (by decide))]
  split
  next h => rw [← h, Nat.div_add_mod]
  next => rfl

/-- A byte whose word is among those written, or which was right before, is right after. -/
theorem byteAt_foldl_setWord {n m : Nat} (b : Bytes n) (i : Nat) (hi : i < n) (ks : List (Fin m)) (a : Bytes n)
    (h : (∃ k ∈ ks, i / 4 = k.val) ∨ byteAt a i = byteAt b i) :
    byteAt (ks.foldl (fun x k => setWord x k.val (wordAt b k.val)) a) i = byteAt b i := by
  induction ks generalizing a with
  | nil => simpa using h
  | cons k ks ih =>
    refine ih _ ?_
    rw [byteAt_setWord_wordAt a b k.val i hi]
    by_cases hk : i / 4 = k.val
    · exact .inr (if_pos hk)
    · simpa [hk] using h

/-- Writing every word of `b` leaves `b`, whatever was there. -/
theorem foldl_setWord_finRange {n m : Nat} (hn : n = 4 * m) (a b : Bytes n) :
    (List.finRange m).foldl (fun x k => setWord x k.val (wordAt b k.val)) a = b :=
  bytes_ext _ _ fun i hi => byteAt_foldl_setWord b i hi _ a <|
    .inl ⟨⟨i / 4, by omega⟩, List.mem_finRange _, rfl⟩

/-! ### The bus writes of a load line -/

theorem offsetOf_aligned (r : RegName) : (offsetOf r).toNat % 4 = 0 := by
  have h := regAt_offsetOf r
  rw [regAt] at h
  split at h
  next ha => exact ha
  next => cases h

/-- `WR` of a register, as the bus performs it, is the register's write (R150, R210). -/
theorem performBus_write_offsetOf (r : RegName) (v : Word) (s : State) :
    performBus (.write (offsetOf r) .four v) s = writeRegister r v s := by
  have ha : (BusOp.write (offsetOf r) .four v).aligned = true := (aligned_iff _).mpr ⟨rfl, offsetOf_aligned r⟩
  rw [performBus, if_pos ha]
  exact writeOffset_offsetOf r v s

/-- A program that begins with a `WR` performs the register's write and goes on after it. -/
theorem performAll_encodeProgram_stmtWr {r : RegName} {v : Word} {s t : State} (p : List Stmt)
    (h : writeRegister r v s = .next t) :
    performAll (encodeProgram (stmtWr r v :: p)) s = performAll (encodeProgram p) t := by
  change performAll (.write (offsetOf r) .four v :: encodeProgram p) s = _
  rw [performAll, performBus_write_offsetOf, h]

/-- Writes that each take the state `g x` to `g (op x k)` fold `op` over the list. -/
theorem performAll_writes {α β : Type} {r : α → RegName} {v : α → Word} (g : β → State) (op : β → α → β)
    (h : ∀ k x, writeRegister (r k) (v k) (g x) = .next (g (op x k))) (ks : List α) (x : β) :
    performAll (encodeProgram (ks.map fun k => stmtWr (r k) (v k))) (g x) = .next (g (ks.foldl op x)) := by
  induction ks generalizing x with
  | nil => rfl
  | cons k ks ih =>
    rw [List.map_cons, performAll_encodeProgram_stmtWr _ (h k x)]
    exact ih (op x k)

/-- A load line fills the array that its writes write word by word; `g` puts an array into the state. -/
theorem performAll_load {n m : Nat} (hn : n = 4 * m) {r : Fin m → RegName} (g : Bytes n → State) (a b : Bytes n)
    (h : ∀ k x, writeRegister (r k) (wordAt b k.val) (g x) = .next (g (setWord x k.val (wordAt b k.val)))) :
    performAll (encodeProgram ((List.finRange m).map fun k => stmtWr (r k) (wordAt b k.val))) (g a) = .next (g b) := by
  rw [performAll_writes g _ h, foldl_setWord_finRange hn]

theorem lockChecked_of_locked (f : State → State) (s : State) (h : s.locked = true) :
    lockChecked f s = s.recordError .locked := by
  rw [lockChecked, if_pos h]

/-- Recording an error once more changes nothing, its flags being sticky (R57, R59). -/
theorem recordError_recordError (e : EngineError) (s : State) : (s.recordError e).recordError e = s.recordError e := by
  simp [State.recordError, BitVec.or_assoc]

/-- A load line of a locked array records the error with its first write and again with each of the others (R214). -/
theorem performAll_load_of_locked {m : Nat} (hm : 0 < m) {r : Fin m → RegName} {v : Fin m → Word} {s : State}
    (f : Fin m → State → State) (hs : s.locked = true)
    (h : ∀ k t, writeRegister (r k) (v k) t = .next (lockChecked (f k) t)) :
    performAll (encodeProgram ((List.finRange m).map fun k => stmtWr (r k) (v k))) s =
      .next (s.recordError .locked) := by
  have first (k : Fin m) : writeRegister (r k) (v k) s = .next (s.recordError .locked) := by
    rw [h, lockChecked_of_locked _ s hs]
  have again (k : Fin m) (_ : Unit) :
      writeRegister (r k) (v k) (s.recordError .locked) = .next (s.recordError .locked) := by
    rw [h, lockChecked_of_locked _ (s.recordError .locked) (by simpa [State.locked] using hs), recordError_recordError]
  cases hks : List.finRange m with
  | nil => exact absurd (List.finRange_eq_nil_iff.mp hks) hm.ne'
  | cons k ks =>
    rw [List.map_cons, performAll_encodeProgram_stmtWr _ (first k)]
    exact performAll_writes (fun _ => s.recordError .locked) (fun x _ => x) again ks ()

end Sys2Proof.Machine

section

open Sys2Proof Sys2Proof.Machine

/-- Settles O1: the decoder inverts the encoder, and a word is made of its two fields. -/
theorem commandWordsDecode : Obligations.CommandWordsDecode :=
  ⟨decode_eq_ok_iff, rfl, rfl, rfl, rfl, rfl, rfl, rfl, rfl⟩

/-- Settles O58: the step performs the `BNZ`, which looks at bit 0 of `STATUS`. -/
theorem waitPollsBusy : Obligations.WaitPollsBusy := by
  intro s l agent stmt defined
  have performed : step s = performStmt (.bnz .status 0x1 l) s.atWrite := step_stmt s _ agent stmt
  refine ⟨fun busy => ?_, fun idle => ?_⟩
  · refine ⟨(s.host.goto l).pc, getElem?_goto_pc defined, ?_⟩
    rw [performed, performStmt_bnz_of_ne_zero]
    · rfl
    · rw [ne_eq, readStatus_and_one_eq_zero_iff]
      simpa using busy
  · rw [performed, performStmt_bnz_of_zero]
    · rfl
    · rw [readStatus_and_one_eq_zero_iff]
      simpa using idle

/-- Settles O59: each line's writes fill the array word by word, or meet the lock one by one. -/
theorem loadsWholeArrays : Obligations.LoadsWholeArrays := by
  intro s a b n
  refine ⟨fun unlocked => ⟨?_, ?_⟩, fun locked => ⟨?_, ?_⟩, ?_, ?_⟩
  · exact performAll_load (r := .key) (by decide) ({ s with key := · }) s.key a fun k x =>
      congrArg Host.Outcome.next (lockChecked_of_unlocked _ { s with key := x } unlocked)
  · exact performAll_load (r := .iv) rfl ({ s with iv := · }) s.iv b fun k x =>
      congrArg Host.Outcome.next (lockChecked_of_unlocked _ { s with iv := x } unlocked)
  · exact performAll_load_of_locked (by decide) (fun k => State.setKeyWord k.val (wordAt a k.val)) locked
      fun _ _ => rfl
  · exact performAll_load_of_locked (by decide) (fun k => State.setIvWord k.val (wordAt b k.val)) locked
      fun _ _ => rfl
  · exact performAll_load (r := .din) rfl ({ s with din := · }) s.din b fun _ _ => rfl
  · exact performAll_load (r := .ck) rfl ({ s with ck := · }) s.ck a fun _ _ => rfl

/-- Settles O2: the words are the encodings of their commands. -/
theorem sampleWordsDecode : Obligations.SampleWordsDecode :=
  ⟨decode_encode .nop, decode_encode .decryptBlock, decode_encode .ckDecrypt, decode_encode .compare⟩

end
end

section
/-! The write of `CMD`: the decoder's two answers, the checks of the dispatch in their order, what the control commands
leave, and the issue and the end of a command (40_control.md R202 to R208, R221, R222). -/

namespace Sys2Proof.Machine

/-! ### Words that are a command and words that are none -/

theorem decodeOpcode_of_lt (op : Byte) (h : op.toNat < 8) : ∃ i, decodeOpcode op = .ok i := by
  fun_cases decodeOpcode op
  case case9 => interval_cases op.toNat <;> contradiction
  all_goals exact ⟨_, rfl⟩

theorem decodeOpcode_of_ge (op : Byte) (h : 8 ≤ op.toNat) : decodeOpcode op = .error (.opcodeNotAssigned op) := by
  fun_cases decodeOpcode op
  case case9 => rfl
  all_goals omega

/-- A word with a zero `MBZ` field and an assigned opcode is a command (R141). -/
theorem decode_of_legal (w : Word) (h : ¬(mbzField w ≠ 0 ∨ 8 ≤ (opcodeField w).toNat)) :
    ∃ i, decode w = .ok i := by
  obtain ⟨mbz, opcode⟩ := not_or.mp h
  rw [decode, if_pos (not_not.mp mbz)]
  exact decodeOpcode_of_lt _ (Nat.lt_of_not_le opcode)

/-- A word with a non-zero `MBZ` field or an unassigned opcode is no command (R142). -/
theorem decode_of_illegal (w : Word) (h : mbzField w ≠ 0 ∨ 8 ≤ (opcodeField w).toNat) :
    ∃ e, decode w = .error e := by
  unfold decode
  split
  next mbz => exact ⟨_, decodeOpcode_of_ge _ (h.resolve_left (not_not.mpr mbz))⟩
  next => exact ⟨_, rfl⟩

theorem dispatchCommand_of_illegal (w : Word) (s : State) (h : mbzField w ≠ 0 ∨ 8 ≤ (opcodeField w).toNat) :
    dispatchCommand w s = .next (s.recordError .illegalCmd) := by
  obtain ⟨e, he⟩ := decode_of_illegal w h
  rw [dispatchCommand, he]

/-! ### The checks of an issue -/

/-- `BUSY` is checked before the command's own conditions (R202, R540). -/
theorem exec_longCommand_checks (c : LongCommand) (s : State) :
    exec c.instr s = .next (
      if s.busy then s.recordError .busy else if s.legal c then s.issue c else s.recordError .sequence) :=
  exec_longCommand c s

theorem issueCommand_of_legal (c : LongCommand) (s : State) (idle : s.busy = false) (legal : s.legal c = true) :
    s.issueCommand c = s.issue c := by
  simp [State.issueCommand, idle, legal]

/-! ### The reset values -/

theorem readStatus_softReset (s : State) : readRegister s.softReset .status = 0 := by
  simp [readRegister, State.statusWord, State.errBitSet, flagAt, StreamState.code, ChecksumState.code, pendCode]

theorem irq_softReset (s : State) : s.softReset.irq = false := by simp [State.irq]

/-- `H0(SHA1)`, word by word (R422). -/
theorem sha1Init_eq : sha1Init = #v[0x67452301, 0xefcdab89, 0x98badcfe, 0x10325476, 0xc3d2e1f0] := by decide

/-- `H0(SHA256)`, word by word (R433). -/
theorem sha256Init_eq : sha256Init =
    #v[0x6a09e667, 0xbb67ae85, 0x3c6ef372, 0xa54ff53a, 0x510e527f, 0x9b05688c, 0x1f83d9ab, 0x5be0cd19] := by decide

/-! ### The end of a command -/

theorem complete_of_idle (s : State) (h : s.busy = false) : complete s = s := by
  simp [complete, h]

/-- No completion moves the host or the schedule (R541). -/
theorem CompletionBlock.agents {s u : State} {c : LongCommand} (h : CompletionBlock s c u) :
    u.host = s.host ∧ u.schedule = s.schedule := by
  cases h <;> simp

/-- With `BUSY` set the engine ends the command, whatever it is, and moves no other agent (R207). -/
theorem complete_of_busy (s : State) (h : s.busy = true) :
    ∃ u : State, complete s = u.finishCompletion ∧ u.host = s.host ∧ u.schedule = s.schedule := by
  rcases complete_cases s with ⟨idle, _⟩ | ⟨_, _, e⟩ | ⟨c, _, _, e⟩
  · simp [h] at idle
  · exact ⟨s, e, rfl, rfl⟩
  · exact ⟨_, e, (completionBlock_effect s c).agents⟩

/-- The engine moves when the schedule says so, and past its end while a command is in flight (log entry 1). -/
theorem nextAgent_of_busy (s : State) (busy : s.busy = true) (h : s.schedule = [] ∨ s.schedule.head? = some .engine) :
    nextAgent s = .engine := by
  unfold nextAgent
  split
  next a rest hs => simpa [hs] using h
  next => simp [busy]

/-! ### States with the same results -/

theorem SameStream.symm {s t : State} (h : SameStream s t) : SameStream t s :=
  ⟨h.hashAlg.symm, h.sstate.symm, h.dout.symm, h.doutLen.symm, h.hcount.symm, h.digest.symm, h.chain.symm,
    h.hstate.symm, h.hbuf.symm⟩

theorem SameResults.symm {s t : State} (h : SameResults s t) : SameResults t s :=
  ⟨h.stream.symm, h.ckstate.symm, h.cmpValid.symm, h.matchBit.symm, h.exp.symm, h.expLen.symm⟩

end Sys2Proof.Machine

section

open Sys2Proof Sys2Proof.Machine

/-- Settles O5: a word that is no command records the error; each of the eight commands meets its own checks. -/
theorem commandDispatch : Obligations.CommandDispatch := by
  intro w s
  rw [writeOffset_cmd]
  by_cases illegal : w.extractLsb' 8 24 ≠ 0 ∨ 8 ≤ (w.extractLsb' 0 8).toNat
  · rw [if_pos illegal, dispatchCommand_of_illegal w s illegal]
  · rw [if_neg illegal]
    obtain ⟨i, hd⟩ := decode_of_legal w illegal
    obtain rfl := eq_encode_of_decode w i hd
    rw [dispatchCommand_of_decode _ i s hd]
    cases i with
    | nop => exact exec_nop s
    | softReset => exact exec_softReset s
    | errClear => exact exec_errClear s
    | initStream => exact (exec_longCommand_checks .initStream s).trans (by simp [encode, State.legal])
    | decryptBlock => exact (exec_longCommand_checks .decryptBlock s).trans (by simp [encode, State.legal])
    | decryptFinal => exact (exec_longCommand_checks .decryptFinal s).trans (by simp [encode, State.legal])
    | ckDecrypt => exact (exec_longCommand_checks .ckDecrypt s).trans (by simp [encode, State.legal])
    | compare => exact (exec_longCommand_checks .compare s).trans (by simp [encode, State.legal])

/-- Settles O6: the decoder answers an error, and its record is the whole effect of the write. -/
theorem illegalCommandRecorded : Obligations.IllegalCommandRecorded := by
  intro w s illegal
  refine ⟨fun i ok => ?_, dispatchCommand_of_illegal w s illegal⟩
  obtain ⟨e, he⟩ := decode_of_illegal w illegal
  rw [he] at ok
  cases ok

/-- Settles O46: a step that is neither a completion nor a reset leaves the result registers the same. -/
theorem resultsAtCompletion : Obligations.ResultsAtCompletion := by
  intro s t h changed
  rcases (stepEffect_of_step h).results with same | ⟨_, _, agent, busy, _⟩ | ⟨moves, _⟩
  · exact absurd same.symm changed
  · exact .inl ⟨agent, busy⟩
  · exact .inr moves

/-- Settles O8: the write of `NOP` answers the state it finds. -/
theorem nopDoesNothing : Obligations.NopDoesNothing := exec_nop

/-- Settles O9: the reset state of the build, whose flags and words are all zero. -/
theorem softResetValues : Obligations.SoftResetValues := by
  intro s
  refine ⟨s.softReset, exec_softReset s, rfl, ?_, readStatus_softReset s, irq_softReset s, complete_of_idle _ rfl⟩
  rw [State.softReset, State.resetOf]
  cases s.hashAlg with
  | sha1 => rw [hashInit, sha1Init_eq]
  | sha256 => rw [hashInit, sha256Init_eq]

/-- Settles O10: clearing the error record leaves no flag for `STATUS.ERR` to show. -/
theorem errClearClears : Obligations.ErrClearClears :=
  fun s => ⟨s.clearErrors, exec_errClear s, rfl, rfl⟩

/-- Settles O11: with nothing in flight a command whose conditions of R205 hold passes both checks of the issue. -/
theorem acceptedIssue : Obligations.AcceptedIssue := by
  intro s c idle conditions
  have legal : s.legal c = true := by
    rcases conditions with rfl | rfl | ⟨rfl, stream⟩ | ⟨rfl, stream⟩ | ⟨rfl, both⟩
    · rfl
    · rfl
    · simpa [State.legal] using stream
    · simpa [State.legal] using stream
    · simpa [State.legal] using both
  calc exec c.instr s
    _ = .next (s.issueCommand c) := exec_longCommand c s
    _ = .next (s.issue c) := by rw [issueCommand_of_legal c s idle legal]

/-- Settles O39: the engine moves next, and its completion ends the command whatever its Completion block did. -/
theorem commandCompletes : Obligations.CommandCompletes := by
  intro s busy scheduled
  obtain ⟨u, e, host, schedule⟩ := complete_of_busy s.popSchedule busy
  have agent : step s = agentStep .engine s.popSchedule := by
    rw [step, systemStep, nextAgent_of_busy s busy scheduled]
  have completes : agentStep .engine s.popSchedule = .next u.finishCompletion := by rw [agentStep, e]
  exact ⟨u.finishCompletion, agent.trans completes, completes, by simp, by simp, by simp [doneBit], by simpa using host,
    by simpa using schedule⟩

end
end

section
/-! What each register reads in every state, `STATUS` field by field, and what a write of the interrupt and the operand
registers changes (10_state.md R45 to R69; 40_control.md R211 to R215). -/

namespace Sys2Proof.Machine

/-! ### The fields of a word -/

/-- A field put at bit `lo` of a word is read back there. -/
theorem extractLsb'_field_same {n : Nat} (x : BitVec n) (lo : Nat) (h : lo + n ≤ 32) :
    (x.setWidth 32 <<< lo).extractLsb' lo n = x := by
  ext i hi
  simp [BitVec.getLsbD_eq_getElem hi, show lo + i < 32 by omega]

/-- A field is not seen at bits outside it. -/
theorem extractLsb'_field_disjoint {n : Nat} (x : BitVec n) (lo start len : Nat)
    (h : start + len ≤ lo ∨ lo + n ≤ start) : (x.setWidth 32 <<< lo).extractLsb' start len = 0#len := by
  ext i hi
  rcases h with below | above
  · simp [show start + i < lo by omega]
  · simp [BitVec.getLsbD_of_ge x (start + i - lo) (by omega)]

theorem flagAt_eq_field (b : Bool) (n : Nat) : flagAt b n = (BitVec.ofBool b).setWidth 32 <<< n := by
  cases b with
  | false => simp [flagAt]
  | true => exact BitVec.eq_of_toNat_eq (by simp [flagAt])

theorem getLsbD_eq_of_extractLsb' {v : Word} {n : Nat} {b : Bool} (h : v.extractLsb' n 1 = BitVec.ofBool b) :
    v.getLsbD n = b := by
  simpa using congrArg (·.getLsbD 0) h

/-! ### `STATUS` -/

/-- The places of the fields of `STATUS`; the rest is 0 (R48). -/
theorem statusWord_fields (s : State) :
    s.statusWord.extractLsb' 0 1 = BitVec.ofBool s.busy ∧ s.statusWord.extractLsb' 1 2 = s.sstate.code ∧
    s.statusWord.extractLsb' 3 2 = s.ckstate.code ∧ s.statusWord.extractLsb' 5 1 = BitVec.ofBool s.cmpValid ∧
    s.statusWord.extractLsb' 6 1 = BitVec.ofBool s.matchBit ∧
    s.statusWord.extractLsb' 7 1 = BitVec.ofBool s.errBitSet ∧ s.statusWord.extractLsb' 8 8 = pendCode s.pend ∧
    s.statusWord.extractLsb' 16 16 = 0 := by
  simp (disch := omega) only [State.statusWord, flagAt_eq_field, BitVec.extractLsb'_or, extractLsb'_field_same,
    extractLsb'_field_disjoint, BitVec.zero_or, BitVec.or_zero, BitVec.ofNat_eq_ofNat, and_self]

/-! ### Words masked by the interrupt bits -/

/-- Three bits are all 0 exactly when the word masked to them is. -/
theorem extractLsb'_eq_zero_iff_masked (x : Word) : x.extractLsb' 0 3 = 0 ↔ x &&& 0x7 = 0 := by
  have mask : (x &&& 0x7).toNat = x.toNat % 2 ^ 3 := Nat.and_two_pow_sub_one_eq_mod x.toNat 3
  rw [← BitVec.toNat_inj, ← BitVec.toNat_inj, mask, BitVec.extractLsb'_toNat]
  rfl

theorem irq_setIntEn (s : State) (v : Word) :
    (s.setIntEn v).irq = true ↔ s.intStatus &&& v &&& 0x7 ≠ 0 := by
  rw [State.irq, bne_iff_ne, ne_eq, extractLsb'_eq_zero_iff_masked]
  simp [intMask, BitVec.and_assoc]

/-- A word whose reserved bits are 0 is the same when masked. -/
theorem masked_of_reserved {x mask : Word} (h : x &&& ~~~mask = 0) : x &&& mask = x := by
  calc x &&& mask
    _ = (x &&& mask) ||| (x &&& ~~~mask) := by rw [h]; simp
    _ = x := by rw [← BitVec.and_or_distrib_left, BitVec.or_not_self, BitVec.and_allOnes]

/-- Writing no 1 acknowledges nothing (R213). -/
theorem ackInterrupts_zero (s : State) (inv : EngineInv s) : s.ackInterrupts 0 = s := by
  have kept : s.intStatus &&& ~~~0 &&& intMask = s.intStatus := by
    rw [show ~~~(0 : Word) = BitVec.allOnes 32 from rfl, BitVec.and_allOnes, masked_of_reserved inv.intStatusReserved]
  rw [State.ackInterrupts, kept]

/-! ### The bytes of an array in the registers of its group -/

/-- Byte `i` of an array is read in its register `i div 4`, wherever the group is (R11). -/
theorem readsByte_wordAt {n : Nat} (s : State) (base i : Nat) (a : Bytes n) (r : RegName)
    (place : BitVec.ofNat 12 (base + 4 * (i / 4)) = offsetOf r) (word : readRegister s r = wordAt a (i / 4)) :
    ReadsByte s base i (byteAt a i) := by
  rw [ReadsByte, place, readOffset_offsetOf, word]
  calc byteOfWord (wordAt a (i / 4)) (i % 4)
    _ = byteAt a (4 * (i / 4) + i % 4) := byteOfWord_wordAt a _ _ (Nat.mod_lt i (by decide))
    _ = byteAt a i := by rw [Nat.div_add_mod]

/-- A length that fits its field is read as it is. -/
theorem toNat_lengthField (w n : Nat) (hw : w ≤ 32) (h : n < 2 ^ w) : ((BitVec.ofNat w n).setWidth 32).toNat = n := by
  rw [BitVec.toNat_setWidth_of_le hw, BitVec.toNat_ofNat, Nat.mod_eq_of_lt h]

/-- The two halves of `HCOUNT` as they are read (R65). -/
theorem readRegister_hcount (s : State) : readRegister s .hcountHi ++ readRegister s .hcountLo = s.hcount :=
  (BitVec.extractLsb'_append_extractLsb'_eq_extractLsb' rfl).trans BitVec.extractLsb'_eq_self

/-! ### The lock -/

theorem locked_iff (s : State) :
    s.locked = true ↔ s.sstate = .stream ∨ (s.busy = true ∧ s.pend = some .initStream) := by
  simp [State.locked]

end Sys2Proof.Machine

section

open Sys2Proof Sys2Proof.Machine

/-- Settles O28: each offset is a register's, and each array reads word by word. -/
theorem registerReads : Obligations.RegisterReads := by
  intro s
  obtain ⟨busy, sstate, ckstate, cmpValid, matchBit, err, pend, rest⟩ := statusWord_fields s
  refine ⟨rfl, (readOffset_offsetOf s .cfg).trans (?_ : cfgWord s.hashAlg = _), rfl,
    ⟨getLsbD_eq_of_extractLsb' busy, sstate.trans ?_, ckstate.trans ?_, getLsbD_eq_of_extractLsb' cmpValid,
      getLsbD_eq_of_extractLsb' matchBit, getLsbD_eq_of_extractLsb' err, pend.trans ?_, rest⟩,
    (readOffset_offsetOf s .errcode).trans (?_ : errcodeWord s.errcode = _), rfl, rfl, rfl, fun k hk => ?_,
    fun i hi => ⟨?_, ?_, ?_⟩, fun i hi => ⟨?_, ?_, ?_⟩, readRegister_hcount s, fun h => ?_, fun h => ?_⟩
  · cases s.hashAlg <;> rfl
  · cases s.sstate <;> rfl
  · cases s.ckstate <;> rfl
  · cases s.pend with
    | none => rfl
    | some c => cases c <;> rfl
  · cases s.errcode with
    | none => rfl
    | some e => cases e <;> rfl
  · exact readOffset_offsetOf s (.key ⟨k, hk⟩)
  · exact readsByte_wordAt s _ i s.iv (.iv ⟨i / 4, by omega⟩) rfl rfl
  · exact readsByte_wordAt s _ i s.din (.din ⟨i / 4, by omega⟩) rfl rfl
  · exact readsByte_wordAt s _ i s.dout (.dout ⟨i / 4, by omega⟩) rfl rfl
  · exact readsByte_wordAt s _ i s.ck (.ck ⟨i / 4, by omega⟩) rfl rfl
  · exact readsByte_wordAt s _ i s.exp (.exp ⟨i / 4, by omega⟩) rfl rfl
  · exact readsByte_wordAt s _ i s.digest (.digest ⟨i / 4, by omega⟩) rfl rfl
  · exact toNat_lengthField 5 s.doutLen (by decide) (by omega)
  · exact toNat_lengthField 6 s.expLen (by decide) (by omega)

/-- Settles O30: both writes mask a word, and the line looks at the masked bits alone. -/
theorem interruptRegisterWrites : Obligations.InterruptRegisterWrites := by
  refine ⟨fun s v => ⟨s.setIntEn v, writeOffset_offsetOf .intEn v s, rfl, rfl, irq_setIntEn s v⟩,
    fun s v => writeOffset_offsetOf .intStatus v s, fun s => ?_, fun s inv => ?_⟩
  · refine (writeOffset_offsetOf .intStatus _ s).trans (congrArg Host.Outcome.next ?_)
    simp [State.ackInterrupts]
  · exact (writeOffset_offsetOf .intStatus 0 s).trans (congrArg Host.Outcome.next (ackInterrupts_zero s inv))

/-- Settles O31: the lock decides a write of `KEY` or `IV`, and a word that is written is four bytes of its array. -/
theorem dataRegisterWrites : Obligations.DataRegisterWrites := by
  intro s v
  refine ⟨fun locked => ?_, fun unlocked => ?_, fun k => ?_, fun k => ?_⟩
  · rw [← locked_iff] at locked
    have refused (f : State → State) : lockChecked f s = s.recordError .locked := lockChecked_of_locked f s locked
    exact ⟨fun k => (writeOffset_offsetOf (.key k) v s).trans (congrArg _ (refused _)),
      fun k => (writeOffset_offsetOf (.iv k) v s).trans (congrArg _ (refused _))⟩
  · rw [← locked_iff, Bool.not_eq_true] at unlocked
    have accepted (f : State → State) : lockChecked f s = f s := lockChecked_of_unlocked f s unlocked
    exact ⟨fun k => ⟨setWord s.key k.val v, (writeOffset_offsetOf (.key k) v s).trans (congrArg _ (accepted _)),
        byteAt_setWord s.key k.val v⟩,
      fun k => ⟨setWord s.iv k.val v, (writeOffset_offsetOf (.iv k) v s).trans (congrArg _ (accepted _)),
        byteAt_setWord s.iv k.val v⟩⟩
  · exact ⟨setWord s.din k.val v, writeOffset_offsetOf (.din k) v s, byteAt_setWord s.din k.val v⟩
  · exact ⟨setWord s.ck k.val v, writeOffset_offsetOf (.ck k) v s, byteAt_setWord s.ck k.val v⟩

end
end

section
/-! The checksum unit (41_checksum.md): the completion of `CK_DECRYPT` field by field, the length it leaves, and its
independence of the content stream (R250, R251, R254). -/

namespace Sys2Proof.Machine

/-! ### The two blocks of the latched checksum -/

theorem lowBlock_eq_padTo (a : Bytes 32) : lowBlock a = padTo 16 (a.toList.take 16) := by
  ext1 i hi
  simp [lowBlock, padTo]

theorem highBlock_eq_padTo (a : Bytes 32) : highBlock a = padTo 16 (a.toList.drop 16) := by
  ext1 i hi
  simp [highBlock, padTo]

/-! ### The padding length -/

theorem padLen_eq (p : Bytes 16) : padLen p = (byteAt p 15).toNat := rfl

/-- A good padding is 1 to 16 bytes long (R297). -/
theorem padLen_of_pkcs7Ok {p : Bytes 16} (ok : pkcs7Ok p = true) : 1 ≤ padLen p ∧ padLen p ≤ 16 := by
  simp only [pkcs7Ok, Bool.and_eq_true, decide_eq_true_eq] at ok
  exact ok.1

/-! ### Issue and completion -/

theorem issueCommand_of_busy (c : LongCommand) (s : State) (busy : s.busy = true) :
    s.issueCommand c = s.recordError .busy := by
  simp [State.issueCommand, busy]

/-- A command in flight ends with its Completion block and the bookkeeping (R207). -/
theorem complete_of_pend {s : State} {c : LongCommand} (busy : s.busy = true) (pend : s.pend = some c) :
    complete s = (effect c s).finishCompletion := by
  simp [complete, effectPending, busy, pend]

theorem agentStep_engine_of_pend {s : State} {c : LongCommand} (busy : s.busy = true) (pend : s.pend = some c) :
    agentStep .engine s = .next (effect c s).finishCompletion :=
  congrArg Host.Outcome.next (complete_of_pend busy pend)

theorem effect_ckDecrypt_of_good {s : State} (ok : pkcs7Ok s.checksumSecond = true) :
    effect .ckDecrypt s = checksumGood (padLen s.checksumSecond) s := by
  simp [effect, effectCkDecrypt, ok]

theorem effect_ckDecrypt_of_bad {s : State} (bad : pkcs7Ok s.checksumSecond = false) :
    effect .ckDecrypt s = checksumBad s := by
  simp [effect, effectCkDecrypt, bad]

/-! ### States with the same stream, the same checksum result or the same latches -/

theorem SameStream.refl (s : State) : SameStream s s := ⟨rfl, rfl, rfl, rfl, rfl, rfl, rfl, rfl, rfl⟩

theorem SameChecksum.refl (s : State) : SameChecksum s s := ⟨rfl, rfl, rfl⟩

/-- The bookkeeping of a completion touches no part of the stream. -/
theorem SameStream.finishCompletion_left {s t : State} (h : SameStream s t) : SameStream s.finishCompletion t :=
  { h with }

theorem SameStream.finishCompletion {s t : State} (h : SameStream s t) :
    SameStream s.finishCompletion t.finishCompletion := { h with }

/-- The bookkeeping of a completion touches no result of the checksum unit. -/
theorem SameChecksum.finishCompletion_left {s t : State} (h : SameChecksum s t) :
    SameChecksum s.finishCompletion t := { h with }

theorem SameChecksum.finishCompletion {s t : State} (h : SameChecksum s t) :
    SameChecksum s.finishCompletion t.finishCompletion := { h with }

namespace CompletionBlock

variable {s u : State} {c : LongCommand}

/-- `CK_DECRYPT` writes no part of the stream (R251). -/
theorem sameStream (h : CompletionBlock s .ckDecrypt u) : SameStream u s := by
  cases h with
  | checksumGood | checksumBad => constructor <;> simp

/-- No other command writes `CKSTATE`, `EXP` or `EXP_LEN` (R51, R67, R68). -/
theorem sameChecksum (h : CompletionBlock s c u) (hc : c ≠ .ckDecrypt) : SameChecksum u s := by
  cases h with
  | checksumGood | checksumBad => exact absurd rfl hc
  | _ => constructor <;> simp

end CompletionBlock

section

variable {s t : State}

theorem SameLatches.checksumSecond (h : SameLatches s t) : s.checksumSecond = t.checksumSecond := by
  rw [State.checksumSecond, h.lKey, h.lCk, State.checksumSecond]

theorem SameLatches.checksumPlain (h : SameLatches s t) : s.checksumPlain = t.checksumPlain := by
  rw [State.checksumPlain, State.checksumFirst, h.lKey, h.lCk, h.lIv, h.checksumSecond, State.checksumPlain,
    State.checksumFirst]

/-- What `CK_DECRYPT` writes of its result is a function of the latches (R250, R253). -/
theorem SameLatches.ckDecrypt (h : SameLatches s t) : SameChecksum (effect .ckDecrypt s) (effect .ckDecrypt t) := by
  cases ok : pkcs7Ok s.checksumSecond with
  | true =>
    rw [effect_ckDecrypt_of_good ok, effect_ckDecrypt_of_good (h.checksumSecond ▸ ok)]
    constructor <;> simp [h.checksumSecond, h.checksumPlain]
  | false =>
    rw [effect_ckDecrypt_of_bad ok, effect_ckDecrypt_of_bad (h.checksumSecond ▸ ok)]
    constructor <;> simp

theorem SameStream.streamPlain (h : SameStream s t) (l : SameLatches s t) : s.streamPlain = t.streamPlain := by
  rw [State.streamPlain, l.lKey, l.lDin, h.chain, State.streamPlain]

theorem SameStream.absorb (h : SameStream s t) (m : List Byte) : SameStream (s.absorb m) (t.absorb m) := by
  constructor <;> simp [h.hashAlg, h.sstate, h.dout, h.doutLen, h.hcount, h.digest, h.chain, h.hstate, h.hbuf]

theorem SameStream.finalize (h : SameStream s t) : s.finalize = t.finalize := by
  simp only [State.finalize, State.hashTail, h.hcount, h.hstate, h.hbuf]

/-- `CHAIN`, `DOUT` and `DOUT_LEN` written alike, as the block commands do (R285, R290). -/
theorem SameStream.blockOutput (h : SameStream s t) {c c' : Bytes 16} (hc : c = c') (d : Bytes 16) (n : Nat) :
    SameStream { s with chain := c, dout := d, doutLen := n } { t with chain := c', dout := d, doutLen := n } :=
  { h with
    dout := rfl
    doutLen := rfl
    chain := hc }

theorem SameStream.finalGood (h : SameStream s t) (l : SameLatches s t) (m : List Byte) :
    SameStream (finalGood m s) (finalGood m t) :=
  have absorbed := (h.blockOutput l.lDin (padTo 16 m) m.length).absorb m
  { absorbed with
    sstate := rfl
    digest := congrArg (padTo 32) absorbed.finalize }

theorem SameStream.finalBad (h : SameStream s t) (l : SameLatches s t) : SameStream (finalBad s) (finalBad t) :=
  { h.blockOutput l.lDin (zeros 16) 0 with sstate := rfl }

theorem SameStream.initStream (h : SameStream s t) (l : SameLatches s t) :
    SameStream (effectInitStream s) (effectInitStream t) := by
  constructor <;> simp [h.hashAlg, l.lIv]

theorem SameStream.decryptBlock (h : SameStream s t) (l : SameLatches s t) :
    SameStream (effectDecryptBlock s) (effectDecryptBlock t) := by
  rw [effectDecryptBlock, effectDecryptBlock, h.streamPlain l]
  exact (h.blockOutput l.lDin _ 16).absorb _

theorem SameStream.decryptFinal (h : SameStream s t) (l : SameLatches s t) :
    SameStream (effectDecryptFinal s) (effectDecryptFinal t) := by
  rw [effectDecryptFinal, effectDecryptFinal, h.streamPlain l]
  split
  · exact h.finalGood l _
  · exact h.finalBad l

theorem SameStream.compare (h : SameStream s t) : SameStream (effectCompare s) (effectCompare t) := { h with }

/-- What any other completion makes of the stream is a function of the stream and the latches (R285, R290). -/
theorem SameStream.effect (h : SameStream s t) (l : SameLatches s t) {c : LongCommand} (hc : c ≠ .ckDecrypt) :
    SameStream (effect c s) (effect c t) := by
  cases c with
  | initStream => exact h.initStream l
  | decryptBlock => exact h.decryptBlock l
  | decryptFinal => exact h.decryptFinal l
  | ckDecrypt => exact absurd rfl hc
  | compare => exact h.compare

end

end Sys2Proof.Machine

section

open Sys2Proof Sys2Proof.Machine

/-- Settles O15: the padding of the second block decides the branch of the Completion block. -/
theorem ckDecryptCompletes : Obligations.CkDecryptCompletes := by
  refine ⟨fun s idle => ?_, fun s busy => ?_, fun s busy pend => ?_⟩
  · exact (exec_longCommand .ckDecrypt s).trans (congrArg _ (issueCommand_of_legal .ckDecrypt s idle rfl))
  · exact (exec_longCommand .ckDecrypt s).trans (congrArg _ (issueCommand_of_busy .ckDecrypt s busy))
  · rw [← lowBlock_eq_padTo, ← highBlock_eq_padTo, agentStep_engine_of_pend busy pend]
    refine ⟨fun ok => ?_, fun bad => ?_⟩
    · rw [effect_ckDecrypt_of_good ok]
      rfl
    · rw [effect_ckDecrypt_of_bad bad]
      have bits : s.intStatus ||| errBit ||| doneBit = s.intStatus ||| 0x3 := BitVec.or_assoc ..
      simp only [checksumBad, State.recordError, State.finishCompletion, State.dropCompare, bits]
      rfl

/-- Settles O19: only the branch with a good padding ends `VALID`, and it takes `32 - n` bytes. -/
theorem expectedHashLength : Obligations.ExpectedHashLength := by
  intro s busy pend valid
  rw [complete_of_pend busy pend] at valid ⊢
  cases ok : pkcs7Ok s.checksumSecond with
  | false =>
    rw [effect_ckDecrypt_of_bad ok] at valid
    simp at valid
  | true =>
    rw [effect_ckDecrypt_of_good ok]
    obtain ⟨low, high⟩ := padLen_of_pkcs7Ok ok
    have len : (checksumGood (padLen s.checksumSecond) s).finishCompletion.expLen = 32 - padLen s.checksumSecond := by
      simp
    rw [len]
    refine ⟨⟨padLen s.checksumSecond, padLen_eq _, low, high, rfl⟩, by omega, by omega, fun i hi => ?_⟩
    exact byteAt_padTo_tail 32 _ i ((List.length_take_le _ _).trans hi)

/-- Settles O26: the frame of each side's Completion blocks, and what each reads. -/
theorem checksumIndependent : Obligations.ChecksumIndependent := by
  refine ⟨fun s pend => ?_, fun s t l sb tb sp tp => ?_, fun s other => ?_, fun s t c h l hc sb tb sp tp => ?_⟩
  · rcases complete_cases s with ⟨_, e⟩ | ⟨_, _, e⟩ | ⟨c, _, inFlight, e⟩ <;> rw [e]
    · exact .refl s
    · exact (SameStream.refl s).finishCompletion_left
    · obtain rfl : c = .ckDecrypt := by simpa [inFlight] using pend
      exact (completionBlock_effect s .ckDecrypt).sameStream.finishCompletion_left
  · rw [complete_of_pend sb sp, complete_of_pend tb tp]
    exact l.ckDecrypt.finishCompletion
  · rcases complete_cases s with ⟨_, e⟩ | ⟨_, _, e⟩ | ⟨c, _, inFlight, e⟩ <;> rw [e]
    · exact .refl s
    · exact (SameChecksum.refl s).finishCompletion_left
    · have hc : c ≠ .ckDecrypt := fun hc => other (hc ▸ inFlight)
      exact ((completionBlock_effect s c).sameChecksum hc).finishCompletion_left
  · rw [complete_of_pend sb sp, complete_of_pend tb tp]
    exact (h.effect l hc).finishCompletion

end
end

section
/-! The hash accumulator (43_integrity.md): what a message leaves in it does not depend on how the message was split
(R333, R336), and `Finalize` gives the hash of the whole message (R334). -/

namespace Sys2Proof.Machine

/-! ### Whole blocks of two messages -/

theorem foldBlocks_append {σ : Type} (f : List Byte → σ → σ) {len : Nat} (n : Nat) (a b : List Byte) (h : σ)
    (whole : len * n ≤ a.length) : foldBlocks f len n (a ++ b) h = foldBlocks f len n a h := by
  induction n generalizing a h with
  | zero => rfl
  | succ n ih =>
    have : len * n + len ≤ a.length := whole
    rw [foldBlocks, foldBlocks, List.drop_append_of_le_length (by omega), List.take_append_of_le_length (by omega),
      ih _ _ (by rw [List.length_drop]; omega)]

theorem foldBlocks_add {σ : Type} (f : List Byte → σ → σ) (len m n : Nat) (a : List Byte) (h : σ) :
    foldBlocks f len (m + n) a h = foldBlocks f len n (a.drop (len * m)) (foldBlocks f len m a h) := by
  induction m generalizing a h with
  | zero => simp [foldBlocks]
  | succ m ih =>
    rw [Nat.succ_add, foldBlocks, ih, List.drop_drop, Nat.add_comm len, ← Nat.mul_succ, foldBlocks]

/-- Folding over the whole blocks of `a`, and then over those of what is left of `a` followed by `b`, is folding over
the whole blocks of `a ++ b`. -/
theorem foldBlocks_leftover {σ : Type} (f : List Byte → σ → σ) {len : Nat} (a b : List Byte) (h : σ)
    (pos : 0 < len) :
    foldBlocks f len ((a.drop (len * (a.length / len)) ++ b).length / len)
        (a.drop (len * (a.length / len)) ++ b) (foldBlocks f len (a.length / len) a h) =
      foldBlocks f len ((a ++ b).length / len) (a ++ b) h := by
  have whole : len * (a.length / len) ≤ a.length := Nat.mul_div_le a.length len
  have blocks : (a ++ b).length / len = a.length / len + (a.drop (len * (a.length / len)) ++ b).length / len := by
    rw [← Nat.mul_add_div pos, List.length_append, List.length_append, List.length_drop]
    congr 1
    omega
  rw [blocks, foldBlocks_add, List.drop_append_of_le_length whole, foldBlocks_append f _ a b h whole]

/-! ### Absorbs one after the other -/

/-- Two absorbs leave the state that one absorb of both parts leaves (R336). -/
theorem absorb_absorb (s : State) (a b : List Byte) : (s.absorb a).absorb b = s.absorb (a ++ b) := by
  have hcount : ((s.absorb a).absorb b).hcount = (s.absorb (a ++ b)).hcount := by
    simp [BitVec.add_assoc, BitVec.ofNat_add]
  have hstate : ((s.absorb a).absorb b).hstate = (s.absorb (a ++ b)).hstate := by
    rw [State.absorb_hstate, State.absorb_hstate, State.absorb_hstate, State.absorb_hbuf,
      foldBlocks_leftover _ _ _ _ (by decide), List.append_assoc]
  have hbuf : ((s.absorb a).absorb b).hbuf = (s.absorb (a ++ b)).hbuf := by
    rw [State.absorb_hbuf, State.absorb_hbuf, State.absorb_hbuf, ← List.append_assoc,
      ← List.drop_append_of_le_length (Nat.mul_div_le _ 64), List.drop_drop, List.length_drop]
    congr 1
    simp only [List.length_append]
    omega
  calc (s.absorb a).absorb b
    _ = { s with
          hcount := ((s.absorb a).absorb b).hcount
          hstate := ((s.absorb a).absorb b).hstate
          hbuf := ((s.absorb a).absorb b).hbuf } := rfl
    _ = s.absorb (a ++ b) := by rw [hcount, hstate, hbuf]; rfl

/-- With less than a block pending there is nothing to compress. -/
theorem absorb_nil {s : State} (short : s.hbuf.length ≤ 63) : s.absorb [] = s := by
  have none : s.hbuf.length / 64 = 0 := by omega
  simp [State.absorb, none, foldBlocks]

/-! ### The hash of a message -/

theorem hashPad_mod (block room len : Nat) : hashPad block room (len % block) = hashPad block room len := by
  rw [hashPad, Nat.mod_mod, hashPad]

/-- `Finalize` gives the hash of what was absorbed since `HashReset` (R334). -/
theorem finalize_absorb_hashReset (s : State) (m : List Byte) :
    (s.hashReset.absorb m).finalize = messageDigest s.hashAlg m := by
  have pending : (s.hashReset.absorb m).hbuf.length = m.length % 64 := by
    rw [absorb_hbuf_length, State.hashReset_hbuf, List.length_nil, Nat.zero_add]
  have length : 8 * (s.hashReset.absorb m).hcount = BitVec.ofNat 64 (8 * m.length) := by simp [BitVec.ofNat_mul]
  have tail : (s.hashReset.absorb m).hashTail = m.drop (64 * (m.length / 64)) ++
      (hashPad 64 56 m.length ++ wordBytes 8 (BitVec.ofNat 64 (8 * m.length))) := by
    rw [State.hashTail, pending, hashPad_mod, length, List.append_assoc]
    simp
  rw [State.finalize, tail, State.absorb_hstate, State.hashReset_hbuf, State.hashReset_hstate, List.nil_append,
    foldBlocks_leftover _ _ _ _ (by decide), messageDigest, List.append_assoc]

/-! ### States with the same accumulator -/

/-- The two states agree on `HCOUNT`, `HSTATE` and `HBUF`. -/
structure SameAccumulator (s t : State) : Prop where
  hcount : s.hcount = t.hcount
  hstate : s.hstate = t.hstate
  hbuf : s.hbuf = t.hbuf

theorem SameAccumulator.trans {s t u : State} (h : SameAccumulator s t) (k : SameAccumulator t u) :
    SameAccumulator s u :=
  ⟨h.hcount.trans k.hcount, h.hstate.trans k.hstate, h.hbuf.trans k.hbuf⟩

theorem SameAccumulator.absorb {s t : State} (h : SameAccumulator s t) (m : List Byte) :
    SameAccumulator (s.absorb m) (t.absorb m) := by
  constructor <;> simp [h.hcount, h.hstate, h.hbuf]

theorem SameAccumulator.finalize {s t : State} (h : SameAccumulator s t) : s.finalize = t.finalize := by
  simp only [State.finalize, State.hashTail, h.hcount, h.hstate, h.hbuf]

end Sys2Proof.Machine
end

section
/-! The content stream (42_stream.md): the PKCS#7 check byte by byte, the three commands from issue to completion, and
the decryption of a region by one command after the other (R280, R282, R285, R290, R295, R297). -/

namespace Sys2Proof.Machine

/-! ### The padding of a block -/

theorem forall_mem_drop_toList {n : Nat} (a : Bytes n) (k : Nat) (v : Byte) :
    (∀ x ∈ a.toList.drop k, x = v) ↔ ∀ i, k ≤ i → i < n → byteAt a i = v := by
  rw [List.forall_mem_iff_getElem]
  constructor
  · intro all i low high
    have at_i := all (i - k) (by simp; omega)
    simpa [high, Nat.add_sub_cancel' low] using at_i
  · intro all j hj
    have high : k + j < n := by simp at hj; omega
    simpa [high] using all (k + j) (Nat.le_add_right k j) high

/-- The check looks at the last `padLen` bytes and at nothing else (R297). -/
theorem pkcs7Ok_iff (p : Bytes 16) :
    pkcs7Ok p = true ↔
      1 ≤ padLen p ∧ padLen p ≤ 16 ∧ ∀ i, 16 - padLen p ≤ i → i < 16 → byteAt p i = byteAt p 15 := by
  simp only [pkcs7Ok, Bool.and_eq_true, decide_eq_true_iff, List.all_eq_true, beq_iff_eq, forall_mem_drop_toList,
    and_assoc]
  rfl

/-- The unpadded part of a block has the length the padding leaves (R297). -/
theorem length_take_pkcs7Len (p : Bytes 16) : (p.toList.take (pkcs7Len p)).length = 16 - padLen p := by
  simp [pkcs7Len]

/-! ### Issue -/

theorem legal_decryptBlock_iff (s : State) : s.legal .decryptBlock = true ↔ s.sstate = .stream := by
  simp [State.legal]

theorem legal_decryptFinal_iff (s : State) : s.legal .decryptFinal = true ↔ s.sstate = .stream := by
  simp [State.legal]

theorem exec_of_legal (c : LongCommand) (s : State) (idle : s.busy = false) (legal : s.legal c = true) :
    exec c.instr s = .next (s.issue c) := by
  rw [exec_longCommand, issueCommand_of_legal c s idle legal]

theorem exec_of_not_legal (c : LongCommand) (s : State) (idle : s.busy = false) (illegal : ¬ s.legal c = true) :
    exec c.instr s = .next (s.recordError .sequence) := by
  rw [exec_longCommand_checks, idle, if_neg Bool.false_ne_true, if_neg illegal]

theorem exec_of_busy (c : LongCommand) (s : State) (busy : s.busy = true) :
    exec c.instr s = .next (s.recordError .busy) := by
  rw [exec_longCommand, issueCommand_of_busy c s busy]

/-! ### Completion -/

/-- Everything the completion of `DECRYPT_BLOCK` writes (R285, R207). -/
theorem finishCompletion_effectDecryptBlock (s : State) :
    (effectDecryptBlock s).finishCompletion = { s with
      chain := s.lDin, dout := s.streamPlain, doutLen := 16
      hcount := (s.absorb s.streamPlain.toList).hcount, hstate := (s.absorb s.streamPlain.toList).hstate
      hbuf := (s.absorb s.streamPlain.toList).hbuf
      pend := none, busy := false, intStatus := s.intStatus ||| 0x1 } := by
  simp only [effectDecryptBlock, State.absorb, State.finishCompletion, doneBit]

/-- Everything the completion of `DECRYPT_FINAL` writes for a good padding; the digest is that of the accumulator it
leaves (R290, R207). -/
theorem finishCompletion_finalGood (m : List Byte) (s : State) :
    (finalGood m s).finishCompletion = { s with
      chain := s.lDin, dout := padTo 16 m, doutLen := m.length
      hcount := (s.absorb m).hcount, hstate := (s.absorb m).hstate, hbuf := (s.absorb m).hbuf
      digest := padTo 32 (s.absorb m).finalize, sstate := .done
      pend := none, busy := false, intStatus := s.intStatus ||| 0x1 } := by
  simp only [finalGood, State.finalize, State.hashTail, State.absorb, State.finishCompletion, doneBit]

/-- Everything the completion of `DECRYPT_FINAL` writes for a malformed padding (R290, R207, R531). -/
theorem finishCompletion_finalBad (s : State) :
    (finalBad s).finishCompletion = { s with
      chain := s.lDin, dout := zeros 16, doutLen := 0, sstate := .error
      errcode := some .padStream, errflags := s.errflags ||| 0x02
      pend := none, busy := false, intStatus := s.intStatus ||| 0x3 } := by
  have bits : s.intStatus ||| errBit ||| doneBit = s.intStatus ||| 0x3 := BitVec.or_assoc ..
  simp only [finalBad, State.recordError, State.finishCompletion, bits]
  rfl

theorem effect_decryptFinal_of_good {s : State} (ok : pkcs7Ok s.streamPlain = true) :
    effect .decryptFinal s = finalGood (s.streamPlain.toList.take (pkcs7Len s.streamPlain)) s := by
  rw [effect, effectDecryptFinal, if_pos ok]

theorem effect_decryptFinal_of_bad {s : State} (bad : pkcs7Ok s.streamPlain = false) :
    effect .decryptFinal s = finalBad s := by
  rw [effect, effectDecryptFinal, bad, if_neg Bool.false_ne_true]

/-- A legal command run to its end from a state with nothing in flight (R206, R207). -/
theorem runCommand_of_legal {c : LongCommand} {s : State} (idle : s.busy = false) (legal : s.legal c = true) :
    s.runCommand c = (effect c (s.issue c)).finishCompletion := by
  rw [State.runCommand, issueCommand_of_legal c s idle legal,
    complete_of_pend (State.issue_busy c s) (State.issue_pend c s)]

/-! ### CBC over a list of blocks -/

theorem cbcPlain_length (key : Bytes 32) (prev : Bytes 16) (cs : List (Bytes 16)) :
    (cbcPlain key prev cs).length = 16 * cs.length := by
  induction cs generalizing prev with
  | nil => rfl
  | cons c cs ih =>
    rw [cbcPlain, List.length_append, ih, Vector.length_toList, List.length_cons]
    omega

/-- What one `DECRYPT_BLOCK` for each block of `cs` makes of the open stream `s` (R285, R295). -/
structure BlocksDecrypted (s : State) (cs : List (Bytes 16)) (t : State) : Prop where
  busy : t.busy = false
  sstate : t.sstate = .stream
  key : t.key = s.key
  errflags : t.errflags = s.errflags
  ckstate : t.ckstate = s.ckstate
  chain : t.chain = cs.getLastD s.chain
  accumulator : SameAccumulator t (s.absorb (cbcPlain s.key s.chain cs))

theorem BlocksDecrypted.nil {s : State} (idle : s.busy = false) (stream : s.sstate = .stream)
    (short : s.hbuf.length ≤ 63) : BlocksDecrypted s [] s where
  busy := idle
  sstate := stream
  key := rfl
  errflags := rfl
  ckstate := rfl
  chain := rfl
  accumulator := by rw [cbcPlain, absorb_nil short]; exact ⟨rfl, rfl, rfl⟩

/-- The next blocks chain to the last of the first ones, and their plaintext follows in the accumulator (R280, R336). -/
theorem BlocksDecrypted.cons {s t u : State} {c : Bytes 16} {cs : List (Bytes 16)} (first : BlocksDecrypted s [c] t)
    (rest : BlocksDecrypted t cs u) : BlocksDecrypted s (c :: cs) u where
  busy := rest.busy
  sstate := rest.sstate
  key := rest.key.trans first.key
  errflags := rest.errflags.trans first.errflags
  ckstate := rest.ckstate.trans first.ckstate
  chain := by
    have last : t.chain = c := first.chain
    rw [rest.chain, last, List.getLastD_cons]
  accumulator := by
    have last : t.chain = c := first.chain
    have plain : cbcPlain s.key s.chain (c :: cs) = cbcPlain s.key s.chain [c] ++ cbcPlain t.key t.chain cs := by
      simp [cbcPlain, last, first.key]
    rw [plain, ← absorb_absorb]
    exact rest.accumulator.trans (first.accumulator.absorb _)

/-- One `DECRYPT_BLOCK` absorbs its block's plaintext and chains the block (R285). -/
theorem runCommand_decryptBlock {s : State} (idle : s.busy = false) (stream : s.sstate = .stream) (c : Bytes 16) :
    BlocksDecrypted s [c] (State.runCommand .decryptBlock { s with din := c }) := by
  have legal : State.legal { s with din := c } .decryptBlock = true := (legal_decryptBlock_iff _).mpr stream
  rw [runCommand_of_legal (s := { s with din := c }) idle legal, effect]
  have plain : cbcPlain s.key s.chain [c] = (State.issue .decryptBlock { s with din := c }).streamPlain.toList := by
    simp [cbcPlain, State.streamPlain]
  constructor
  case accumulator => rw [plain]; constructor <;> simp
  all_goals simp [stream]

/-- Block by block (R295). -/
theorem runBlocks_blocksDecrypted (cs : List (Bytes 16)) {s : State} (idle : s.busy = false)
    (stream : s.sstate = .stream) (short : s.hbuf.length ≤ 63) : BlocksDecrypted s cs (State.runBlocks cs s) := by
  induction cs generalizing s with
  | nil => exact .nil idle stream short
  | cons c cs ih =>
    have first := runCommand_decryptBlock idle stream c
    have pending : (State.runCommand .decryptBlock { s with din := c }).hbuf.length ≤ 63 := by
      rw [first.accumulator.hbuf, absorb_hbuf_length]
      omega
    exact first.cons (ih first.busy first.sstate pending)

/-! ### A whole region -/

/-- `INIT_STREAM` opens the stream with the operands of its issue and an accumulator that has absorbed
nothing (R282). -/
structure StreamOpened (s t : State) : Prop where
  busy : t.busy = false
  sstate : t.sstate = .stream
  key : t.key = s.key
  chain : t.chain = s.iv
  accumulator : SameAccumulator t s.hashReset

theorem runCommand_initStream {s : State} (idle : s.busy = false) :
    StreamOpened s (State.runCommand .initStream s) := by
  rw [runCommand_of_legal idle rfl, effect]
  constructor
  case accumulator => constructor <;> simp
  all_goals simp

/-- `INIT_STREAM` and one `DECRYPT_BLOCK` for each block absorb the CBC plaintext of the blocks (R295). -/
theorem runBlocks_initStream (cs : List (Bytes 16)) {s : State} (idle : s.busy = false) :
    let t := State.runBlocks cs (State.runCommand .initStream s)
    t.busy = false ∧ t.sstate = .stream ∧ t.key = s.key ∧ t.chain = cs.getLastD s.iv ∧
      SameAccumulator t (s.hashReset.absorb (cbcPlain s.key s.iv cs)) := by
  have opened := runCommand_initStream idle
  have empty : (State.runCommand .initStream s).hbuf.length ≤ 63 := by simp [opened.accumulator.hbuf]
  have blocks := runBlocks_blocksDecrypted cs opened.busy opened.sstate empty
  have absorbed := blocks.accumulator.trans (opened.accumulator.absorb _)
  rw [opened.key, opened.chain] at absorbed
  exact ⟨blocks.busy, blocks.sstate, blocks.key.trans opened.key, opened.chain ▸ blocks.chain, absorbed⟩

/-- `DECRYPT_FINAL` with the unpadded plaintext `m` closes the open stream `s` (R290). -/
structure StreamClosed (s : State) (m : List Byte) (t : State) : Prop where
  busy : t.busy = false
  sstate : t.sstate = .done
  dout : t.dout = padTo 16 m
  doutLen : t.doutLen = m.length
  hcount : t.hcount = (s.absorb m).hcount
  digest : t.digest = padTo 32 (s.absorb m).finalize

theorem runCommand_decryptFinal {s : State} {p : Bytes 16} (idle : s.busy = false) (stream : s.sstate = .stream)
    (plain : xorBytes (Aes.aesDec256 s.key s.din) s.chain = p) (ok : pkcs7Ok p = true) :
    StreamClosed s (p.toList.take (pkcs7Len p)) (State.runCommand .decryptFinal s) := by
  have issued : (s.issue .decryptFinal).streamPlain = p := by simp [State.streamPlain, plain]
  rw [runCommand_of_legal idle ((legal_decryptFinal_iff s).mpr stream),
    effect_decryptFinal_of_good (issued.symm ▸ ok), issued, finishCompletion_finalGood]
  exact ⟨rfl, rfl, rfl, rfl, rfl, rfl⟩

end Sys2Proof.Machine

section

open Sys2Proof Sys2Proof.Machine

/-- Settles O18: the check read byte by byte; a padding of at least one byte leaves fewer than 16. -/
theorem paddingRule : Obligations.PaddingRule := by
  intro p
  refine ⟨pkcs7Ok_iff p, fun ok => ⟨rfl, ?_⟩⟩
  have atLeastOne : 1 ≤ padLen p := (padLen_of_pkcs7Ok ok).1
  rw [pkcs7Len]
  omega

/-- Settles O12: `INIT_STREAM` has no condition of its own. -/
theorem initStreamCompletes : Obligations.InitStreamCompletes :=
  ⟨fun s idle => exec_of_legal .initStream s idle rfl, exec_of_busy .initStream,
    fun _ busy pend => agentStep_engine_of_pend busy pend⟩

/-- Settles O13: the issue needs an open stream. -/
theorem decryptBlockCompletes : Obligations.DecryptBlockCompletes := by
  refine ⟨fun s idle stream => exec_of_legal .decryptBlock s idle ((legal_decryptBlock_iff s).mpr stream),
    fun s idle closed => exec_of_not_legal .decryptBlock s idle (mt (legal_decryptBlock_iff s).mp closed),
    exec_of_busy .decryptBlock, fun s busy pend => ?_⟩
  rw [← State.streamPlain, agentStep_engine_of_pend busy pend, effect, finishCompletion_effectDecryptBlock]

/-- Settles O14: the padding of the plaintext decides the branch of the Completion block. -/
theorem decryptFinalCompletes : Obligations.DecryptFinalCompletes := by
  refine ⟨fun s idle stream => exec_of_legal .decryptFinal s idle ((legal_decryptFinal_iff s).mpr stream),
    fun s idle closed => exec_of_not_legal .decryptFinal s idle (mt (legal_decryptFinal_iff s).mp closed),
    exec_of_busy .decryptFinal, fun s busy pend => ?_⟩
  rw [← State.streamPlain, agentStep_engine_of_pend busy pend]
  refine ⟨fun ok => ?_, fun bad => ?_⟩
  · rw [effect_decryptFinal_of_good ok, finishCompletion_finalGood, length_take_pkcs7Len, pkcs7Len, padLen_eq]
  · rw [effect_decryptFinal_of_bad bad, finishCompletion_finalBad]

/-- Settles O24: by induction on the blocks; their plaintext has 16 bytes a block. -/
theorem blocksDecryptCbc : Obligations.BlocksDecryptCbc := by
  intro s cs idle stream short
  obtain ⟨busy, sstate, key, errflags, ckstate, chain, accumulator⟩ := runBlocks_blocksDecrypted cs idle stream short
  have hcount := accumulator.hcount
  rw [State.absorb_hcount, cbcPlain_length] at hcount
  exact ⟨busy, sstate, key, errflags, ckstate, chain, accumulator.hstate, accumulator.hbuf, hcount⟩

/-- Settles O25: the unpadded last plaintext is absorbed after that of the blocks before it, and the digest of the
accumulator is the hash of the two together. -/
theorem regionDecrypts : Obligations.RegionDecrypts := by
  intro s cs c idle p n t u ok
  obtain ⟨busy, sstate, key, chain, accumulator⟩ := runBlocks_initStream cs idle
  have plain : xorBytes (Aes.aesDec256 t.key c) t.chain = p := by rw [key, chain]
  have closed : StreamClosed { t with din := c } (p.toList.take (16 - n)) u :=
    runCommand_decryptFinal busy sstate plain ok
  have loaded : SameAccumulator { t with din := c } (s.hashReset.absorb (cbcPlain s.key s.iv cs)) :=
    ⟨accumulator.hcount, accumulator.hstate, accumulator.hbuf⟩
  have absorbed := loaded.absorb (p.toList.take (16 - n))
  rw [absorb_absorb] at absorbed
  have length : (p.toList.take (16 - n)).length = 16 - n := length_take_pkcs7Len p
  have hcount : u.hcount = BitVec.ofNat 64 (16 * (cs.length + 1) - n) := by
    have bound : n ≤ 16 := (padLen_of_pkcs7Ok ok).2
    have total : 16 * cs.length + (16 - n) = 16 * (cs.length + 1) - n := by omega
    rw [closed.hcount, absorbed.hcount, State.absorb_hcount, State.hashReset_hcount, List.length_append,
      cbcPlain_length, length, total]
    exact BitVec.zero_add _
  have digest : u.digest = padTo 32 (messageDigest s.hashAlg (cbcPlain s.key s.iv cs ++ p.toList.take (16 - n))) := by
    rw [closed.digest, absorbed.finalize, finalize_absorb_hashReset]
  exact ⟨closed.sstate, closed.busy, closed.dout, closed.doutLen.trans length, hcount, digest⟩

end
end

section
/-! The integrity comparison (43_integrity.md): `COMPARE` from issue to completion (R340 to R343); and, of the hash
accumulator, an absorb of at most 16 bytes (R333), the tail `Finalize` compresses (R334), and the hash of any list of
absorbs (R336). -/

namespace Sys2Proof.Machine

/-! ### The comparison -/

/-- Equal prefixes are equal bytes; past the end of both arrays every byte reads 0. -/
theorem take_toList_eq_iff {n : Nat} (a b : Bytes n) (k : Nat) :
    a.toList.take k = b.toList.take k ↔ ∀ i < k, byteAt a i = byteAt b i := by
  constructor
  · intro same i hi
    rcases Nat.lt_or_ge i n with hn | hn
    · have at_i := congrArg (·[i]?) same
      simpa [hi, hn] using at_i
    · rw [byteAt_of_ge a i hn, byteAt_of_ge b i hn]
  · intro same
    refine List.ext_getElem (by simp) fun i hi _ => ?_
    obtain ⟨hk, hn⟩ : i < k ∧ i < n := by simpa using hi
    simpa [hn] using same i hk

/-- `COMPARE` compares the lengths and every byte (R340, R341). -/
theorem hashesEqual_iff (s : State) :
    s.hashesEqual = true ↔ s.expLen = s.hashAlg.hashLen ∧ ∀ i < s.expLen, byteAt s.exp i = byteAt s.digest i := by
  simp only [State.hashesEqual, Bool.and_eq_true, beq_iff_eq]
  refine and_congr_right fun len => ?_
  rw [← len, take_toList_eq_iff]

theorem legal_compare_iff (s : State) : s.legal .compare = true ↔ s.sstate = .done ∧ s.ckstate = .valid := by
  simp [State.legal]

/-- Everything the completion of `COMPARE` writes when the hashes agree (R340, R207). -/
theorem finishCompletion_compare_of_equal {s : State} (equal : s.hashesEqual = true) :
    (effect .compare s).finishCompletion = { s with
      cmpValid := true, matchBit := true, pend := none, busy := false, intStatus := s.intStatus ||| 0x1 } := by
  simp only [effect, effectCompare, State.finishCompletion, equal, if_true, doneBit]

/-- Everything the completion of `COMPARE` writes when they do not: `MISMATCH` beside `DONE` (R340, R342, R207). -/
theorem finishCompletion_compare_of_differ {s : State} (differ : s.hashesEqual = false) :
    (effect .compare s).finishCompletion = { s with
      cmpValid := true, matchBit := false, pend := none, busy := false, intStatus := s.intStatus ||| 0x5 } := by
  have bits : s.intStatus ||| mismatchBit ||| doneBit = s.intStatus ||| 0x5 := BitVec.or_assoc ..
  simp only [effect, effectCompare, State.finishCompletion, differ, Bool.false_eq_true, if_false, bits]

/-- An expected hash has at most 31 bytes, a SHA-256 digest has 32 (R343). -/
theorem hashesEqual_of_sha256 {s : State} (inv : EngineInv s) (alg : s.hashAlg = .sha256) : s.hashesEqual = false := by
  rw [Bool.eq_false_iff, Ne, hashesEqual_iff]
  rintro ⟨len, -⟩
  have digest : s.hashAlg.hashLen = 32 := by rw [alg]; rfl
  have short := inv.expLen
  omega

/-! ### Short absorbs -/

/-- Less than a block stays pending (R333). -/
theorem absorb_of_lt {s : State} {m : List Byte} (short : s.hbuf.length + m.length < 64) :
    s.absorb m = { s with hcount := s.hcount + BitVec.ofNat 64 m.length, hbuf := s.hbuf ++ m } := by
  have none : (s.hbuf ++ m).length / 64 = 0 := by rw [List.length_append]; omega
  simp only [State.absorb, none, foldBlocks, Nat.mul_zero, List.drop_zero]

/-- From one block to less than two, the first block is compressed and the rest stays pending (R333). -/
theorem absorb_of_ge {s : State} {m : List Byte} (full : 64 ≤ s.hbuf.length + m.length)
    (short : s.hbuf.length + m.length < 128) :
    s.absorb m = { s with
      hcount := s.hcount + BitVec.ofNat 64 m.length
      hstate := s.hstate.compress ((s.hbuf ++ m).take 64)
      hbuf := (s.hbuf ++ m).drop 64 } := by
  have one : (s.hbuf ++ m).length / 64 = 1 := by rw [List.length_append]; omega
  simp only [State.absorb, one, foldBlocks, Nat.mul_one]

/-! ### The tail of a message -/

/-- The number of zero bytes in the padding of `len` bytes before the length field (R334). -/
def zeroCount (len : Nat) : Nat := (64 + 56 - 1 - len % 64) % 64

theorem hashPad_eq_zeroCount (len : Nat) : hashPad 64 56 len = 0x80 :: List.replicate (zeroCount len) 0 := rfl

theorem zeroCount_lt (len : Nat) : zeroCount len < 64 := Nat.mod_lt _ (by decide)

theorem zeroCount_reaches_room (len : Nat) : (len + 1 + zeroCount len) % 64 = 56 := by
  rw [zeroCount]
  omega

theorem zeroCount_fewest (len y : Nat) (fewer : y < zeroCount len) : (len + 1 + y) % 64 ≠ 56 := by
  rw [zeroCount] at fewer
  omega

/-- The tail is the pending bytes, the 0x80 byte, the zeros and eight bytes of length (R334). -/
theorem hashTail_length (s : State) : s.hashTail.length = s.hbuf.length + 1 + zeroCount s.hbuf.length + 8 := by
  simp only [State.hashTail, hashPad_eq_zeroCount, List.length_append, List.length_cons, List.length_replicate,
    wordBytes_length]
  omega

/-! ### A list of absorbs -/

/-- Absorbing the parts one by one is absorbing their concatenation (R336). -/
theorem foldl_absorb (ms : List (List Byte)) {s : State} (short : s.hbuf.length ≤ 63) :
    ms.foldl (fun t m => State.absorb m t) s = s.absorb ms.flatten := by
  induction ms generalizing s with
  | nil => rw [List.foldl_nil, List.flatten_nil, absorb_nil short]
  | cons m ms ih =>
    have pending : (s.absorb m).hbuf.length ≤ 63 := by
      rw [absorb_hbuf_length]
      omega
    rw [List.foldl_cons, ih pending, absorb_absorb, List.flatten_cons]

theorem messageDigest_length (alg : HashAlg) (m : List Byte) : (messageDigest alg m).length = alg.hashLen := by
  rw [messageDigest, digest_length, foldBlocks_alg, hashInit_alg]

end Sys2Proof.Machine

section

open Sys2Proof Sys2Proof.Machine

/-- Settles O16: the issue needs both results; equality of the hashes decides what the completion reports. -/
theorem compareCompletes : Obligations.CompareCompletes := by
  refine ⟨fun s idle done valid => exec_of_legal .compare s idle ((legal_compare_iff s).mpr ⟨done, valid⟩),
    fun s idle missing => exec_of_not_legal .compare s idle (mt (legal_compare_iff s).mp missing),
    exec_of_busy .compare, fun s busy pend => ?_⟩
  rw [← hashesEqual_iff, agentStep_engine_of_pend busy pend]
  refine ⟨fun equal => ?_, fun differ => ?_⟩
  · rw [finishCompletion_compare_of_equal equal]
  · rw [finishCompletion_compare_of_differ (Bool.eq_false_iff.mpr differ)]

/-- Settles O17: the lengths differ in every state the invariants allow. -/
theorem sha256NeverMatches : Obligations.Sha256NeverMatches := by
  intro s inv alg busy pend
  rw [complete_of_pend busy pend, finishCompletion_compare_of_differ (hashesEqual_of_sha256 inv alg)]
  exact ⟨rfl, rfl, rfl, rfl⟩

/-- Settles O20: 63 pending bytes and 16 more are less than two blocks. -/
theorem absorbShort : Obligations.AbsorbShort := by
  intro s m short pending
  split
  next few => exact absorb_of_lt few
  next full => exact absorb_of_ge (Nat.le_of_not_lt full) (by omega)

/-- Settles O21: the whole blocks of the two parts, one after the other, are those of the whole. -/
theorem absorbSplit : Obligations.AbsorbSplit := absorb_absorb

/-- Settles O22: the zeros of the padding fill the block up to its length field, at most one block further on. -/
theorem finalizeTail : Obligations.FinalizeTail := by
  intro s pending
  have room := zeroCount_reaches_room s.hbuf.length
  have less := zeroCount_lt s.hbuf.length
  refine ⟨zeroCount s.hbuf.length, room, zeroCount_fewest s.hbuf.length, ?_, ?_⟩
  · rw [State.hashTail, hashPad_eq_zeroCount, List.append_cons, wordBytes]
  · rw [hashTail_length]
    omega

/-- Settles O23: the list of absorbs is one absorb of the concatenation, and its hash is the one of the message. -/
theorem finalizeIsHash : Obligations.FinalizeIsHash := by
  intro s ms
  have empty : s.hashReset.hbuf.length ≤ 63 := by simp
  refine ⟨?_, messageDigest_length s.hashAlg ms.flatten⟩
  rw [foldl_absorb ms empty, finalize_absorb_hashReset]

end
end

section
/-! The AES-256 inverse cipher (44_aes256.md): the key expansion word by word, the steps of an inverse round byte by
byte, and the S-box as the affine map of the inverse in the field. -/

namespace Sys2Proof.Machine.Aes

/-! ### Words of the key schedule -/

theorem byteAt_ofFn {n : Nat} (f : Fin n → Byte) (i : Nat) (h : i < n) : byteAt (Vector.ofFn f) i = f ⟨i, h⟩ := by
  rw [byteAt_of_lt _ i h, Vector.getElem_ofFn]

theorem xorWord_eq_xorBytes (v w : Bytes 4) : xorWord v w = xorBytes v w := by
  refine bytes_ext _ _ fun i hi => ?_
  rw [byteAt_xorBytes, byteAt_of_lt _ i hi, byteAt_of_lt _ i hi, byteAt_of_lt _ i hi]
  obtain rfl | rfl | rfl | rfl : i = 0 ∨ i = 1 ∨ i = 2 ∨ i = 3 := by omega
  all_goals rfl

/-- R375: the round constants AES-256 uses. -/
theorem rcon_eq {j : Nat} (first : 1 ≤ j) (last : j ≤ 7) :
    rcon j = [0x01, 0x02, 0x04, 0x08, 0x10, 0x20, 0x40].getD (j - 1) 0 := by
  interval_cases j <;> decide

theorem subWord_eq (t : Bytes 4) : subWord t = #v[sbox t[0], sbox t[1], sbox t[2], sbox t[3]] := rfl

/-- The round constant goes into the first byte alone. -/
theorem xorWord_subWord_rotWord (t : Bytes 4) (b : Byte) :
    xorWord (subWord (rotWord t)) #v[b, 0, 0, 0] = #v[sbox t[1] ^^^ b, sbox t[2], sbox t[3], sbox t[0]] := by
  simp [xorWord, subWord, rotWord]

/-! ### The key expansion -/

theorem length_expandFrom (n i : Nat) (ws : List (Bytes 4)) : (expandFrom n i ws).length = ws.length + n := by
  induction n generalizing i ws with
  | zero => rfl
  | succ n ih =>
    rw [expandFrom, ih, List.length_cons]
    omega

theorem suffix_expandFrom (n i : Nat) (ws : List (Bytes 4)) : ws <:+ expandFrom n i ws := by
  induction n generalizing i ws with
  | zero => exact List.suffix_rfl
  | succ n ih => exact (List.suffix_cons _ ws).trans (ih _ _)

/-- A word of the schedule stays what it is when later words are added. -/
theorem getD_reverse_expandFrom (n i : Nat) (ws : List (Bytes 4)) {j : Nat} (h : j < ws.length) :
    (expandFrom n i ws).reverse.getD j (zeros 4) = ws.getD (ws.length - 1 - j) (zeros 4) := by
  obtain ⟨added, eq⟩ := suffix_expandFrom n i ws
  rw [← eq, List.reverse_append, List.getD_append _ _ _ _ (by simpa using h), List.getD_reverse j h]

/-- Word `j` of the schedule `w` follows from the words before it (R374). -/
def FollowsAt (w : List (Bytes 4)) (j : Nat) : Prop :=
  w.getD j (zeros 4) = xorWord (w.getD (j - 8) (zeros 4)) (scheduleCore j (w.getD (j - 1) (zeros 4)))

/-- Each word that steps `i`, `i+1`, … add to `i` words follows from the words before it. -/
theorem followsAt_expandFrom (n i : Nat) (ws : List (Bytes 4)) (len : ws.length = i) (first : 8 ≤ i) (j : Nat)
    (lo : i ≤ j) (hi : j < i + n) : FollowsAt (expandFrom n i ws).reverse j := by
  induction n generalizing i ws with
  | zero => omega
  | succ n ih =>
    obtain rfl | later := lo.eq_or_lt
    · have word : ∀ k ≤ 8, (expandFrom (n + 1) i ws).reverse.getD (i - k) (zeros 4) =
          (xorWord (ws.getD 7 (zeros 4)) (scheduleCore i (ws.getD 0 (zeros 4))) :: ws).getD k (zeros 4) := by
        intro k le
        rw [expandFrom, getD_reverse_expandFrom _ _ _ (by rw [List.length_cons]; omega), List.length_cons, len,
          show i + 1 - 1 - (i - k) = k by omega]
      rw [FollowsAt, word 8 le_rfl, word 1 (by decide)]
      exact word 0 (by decide)
    · exact ih (i + 1) _ (by rw [List.length_cons, len]) (by omega) later (by omega)

theorem length_keyWords_reverse (k : Bytes 32) : (keyWords k).reverse.length = 8 := rfl

theorem length_keyExpansion (k : Bytes 32) : (keyExpansion k).length = 60 := by
  rw [keyExpansion, List.length_reverse, length_expandFrom, length_keyWords_reverse]

theorem followsAt_keyExpansion (k : Bytes 32) {i : Nat} (lo : 8 ≤ i) (hi : i < 60) : FollowsAt (keyExpansion k) i :=
  followsAt_expandFrom 52 8 _ (length_keyWords_reverse k) le_rfl i lo hi

theorem keyWords_eq_map (k : Bytes 32) :
    keyWords k = (List.range 8).map fun i => Vector.ofFn fun j : Fin 4 => byteAt k (4 * i + j) := rfl

/-- Word `i` of the first eight is bytes `4i` to `4i + 3` of the key. -/
theorem byteAt_keyExpansion (k : Bytes 32) {i j : Nat} (hi : i < 8) (hj : j < 4) :
    byteAt ((keyExpansion k).getD i (zeros 4)) j = byteAt k (4 * i + j) := by
  have word : (keyExpansion k).getD i (zeros 4) = (keyWords k).getD i (zeros 4) := by
    rw [keyExpansion, getD_reverse_expandFrom _ _ _ hi, ← List.getD_reverse (l := (keyWords k).reverse) i hi,
      List.reverse_reverse]
  rw [word, keyWords_eq_map, List.getD_eq_getElem _ _ (by simpa using hi), List.getElem_map, List.getElem_range,
    byteAt_ofFn _ j hj]

/-! ### The steps of an inverse round -/

theorem byteAt_invShiftRows (s : Bytes 16) {i : Nat} (h : i < 16) :
    byteAt (invShiftRows s) i = byteAt s (i % 4 + 4 * ((i / 4 + 4 - i % 4) % 4)) := by
  rw [invShiftRows, byteAt_ofFn _ i h, byteAt_of_lt]

theorem byteAt_addRoundKey (s : Bytes 16) (w : List (Bytes 4)) (n : Nat) {i : Nat} (h : i < 16) :
    byteAt (addRoundKey s w n) i = byteAt s i ^^^ byteAt (w.getD (4 * n + i / 4) (zeros 4)) (i % 4) := by
  rw [addRoundKey, byteAt_ofFn _ i h, byteAt_of_lt s i h, byteAt_of_lt _ _ (Nat.mod_lt i (by decide))]
  rfl

theorem byteAt_invMixColumns (s : Bytes 16) {i : Nat} (h : i < 16) :
    byteAt (invMixColumns s) i = invMixByte (i % 4) (byteAt s (4 * (i / 4))) (byteAt s (4 * (i / 4) + 1))
      (byteAt s (4 * (i / 4) + 2)) (byteAt s (4 * (i / 4) + 3)) := by
  rw [invMixColumns, byteAt_ofFn _ i h, byteAt_of_lt, byteAt_of_lt, byteAt_of_lt, byteAt_of_lt]

/-- R379: each row's coefficients are those of the row above, one place further on. -/
theorem invMixByte_eq {r : Nat} (h : r < 4) (a0 a1 a2 a3 : Byte) :
    invMixByte r a0 a1 a2 a3 =
      gmul ([0x0e, 0x0b, 0x0d, 0x09].getD ((4 - r) % 4) 0) a0 ^^^
      gmul ([0x0e, 0x0b, 0x0d, 0x09].getD ((5 - r) % 4) 0) a1 ^^^
      gmul ([0x0e, 0x0b, 0x0d, 0x09].getD ((6 - r) % 4) 0) a2 ^^^
      gmul ([0x0e, 0x0b, 0x0d, 0x09].getD ((7 - r) % 4) 0) a3 := by
  obtain rfl | rfl | rfl | rfl : r = 0 ∨ r = 1 ∨ r = 2 ∨ r = 3 := by omega
  all_goals rfl

/-! ### The S-box -/

/-- The byte that the affine map of R372 takes to `s`. -/
def affinePreimage (s : Byte) : Byte := s.rotateLeft 1 ^^^ s.rotateLeft 3 ^^^ s.rotateLeft 6 ^^^ 0x05

/-- Bit `i` of the affine map of R372, at the byte it takes to `s`. -/
theorem getLsbD_affinePreimage (s : Byte) : ∀ i < 8, s.getLsbD i =
    ((affinePreimage s).getLsbD i ^^ (affinePreimage s).getLsbD ((i + 4) % 8) ^^
      (affinePreimage s).getLsbD ((i + 5) % 8) ^^ (affinePreimage s).getLsbD ((i + 6) % 8) ^^
      (affinePreimage s).getLsbD ((i + 7) % 8) ^^ (0x63 : Byte).getLsbD i) := by
  revert s
  decide +kernel

/-- With the affine map undone, the table of R372 holds the inverses of the field, read over its 256 entries. -/
theorem affinePreimage_sbox (a : Byte) :
    a = 0 ∧ affinePreimage (sbox a) = 0 ∨ gmul a (affinePreimage (sbox a)) = 0x01 := by
  revert a
  decide +kernel

/-- R373, read over the 256 entries of the tables. -/
theorem invSbox_sbox (a : Byte) : invSbox (sbox a) = a := by
  revert a
  decide +kernel

/-! ### The known answer -/

/-- The answer of FIPS-197, Appendix C.3 (R381). -/
theorem aesDec256_known_answer :
    aesDec256 (Vector.ofFn fun i : Fin 32 => BitVec.ofNat 8 i.val)
      #v[0x8e, 0xa2, 0xb7, 0xca, 0x51, 0x67, 0x45, 0xbf, 0xea, 0xfc, 0x49, 0x90, 0x4b, 0x49, 0x60, 0x89] =
    #v[0x00, 0x11, 0x22, 0x33, 0x44, 0x55, 0x66, 0x77, 0x88, 0x99, 0xaa, 0xbb, 0xcc, 0xdd, 0xee, 0xff] := by
  decide +kernel

end Sys2Proof.Machine.Aes

section

open Sys2Proof Sys2Proof.Machine

/-- Settles O50: the first eight words are the key's, and each step adds a word that follows from those before it. -/
theorem keyExpansionRule : Obligations.KeyExpansionRule := by
  intro k
  refine ⟨Aes.length_keyExpansion k, fun i j hi hj => Aes.byteAt_keyExpansion k hi hj, fun i lo hi => ?_⟩
  have step : Aes.FollowsAt (Aes.keyExpansion k) i := Aes.followsAt_keyExpansion k lo hi
  rw [Aes.FollowsAt, Aes.xorWord_eq_xorBytes, Aes.scheduleCore, Aes.xorWord_subWord_rotWord, Aes.subWord_eq,
    Aes.rcon_eq (j := i / 8) (by omega) (by omega)] at step
  exact step

/-- Settles O51: index `r + 4c` of the block is row `r` of column `c`. -/
theorem inverseRoundSteps : Obligations.InverseRoundSteps := by
  intro s w n r c hr hc
  have row : (r + 4 * c) % 4 = r := by omega
  have column : (r + 4 * c) / 4 = c := by omega
  have inBlock : r + 4 * c < 16 := by omega
  refine ⟨?_, ?_, ?_⟩
  · rw [Aes.byteAt_invShiftRows s (by omega)]
    congr 1
    omega
  · rw [Aes.byteAt_addRoundKey s w n inBlock, row, column]
  · rw [Aes.byteAt_invMixColumns s inBlock, row, column, Aes.invMixByte_eq hr]

/-- Settles O49: the byte whose affine image is the entry of `a` is the inverse of `a`. -/
theorem cipherChecks : Obligations.CipherChecks :=
  ⟨by decide, by decide, by decide,
    fun a => ⟨Aes.affinePreimage (Aes.sbox a), Aes.affinePreimage_sbox a, Aes.getLsbD_affinePreimage (Aes.sbox a)⟩,
    Aes.invSbox_sbox, Aes.aesDec256_known_answer⟩

end
end

section
/-! Words and message schedules of the hash functions (45_hash_functions.md): the big-endian words of a block, the words
that follow them, and the bytes of a digest. -/

namespace Sys2Proof.Machine

/-! ### Words and bytes -/

/-- Bit `j` of a big-endian word: the last byte holds the least significant bits (R420). -/
theorem getLsbD_bigEndian (w : Nat) (bs : List Byte) (j : Nat) :
    (bigEndian w bs).getLsbD j = (decide (j < w) && (bs.reverse.getD (j / 8) 0).getLsbD (j % 8)) := by
  induction bs with
  | nil => simp [bigEndian]
  | cons b bs ih =>
    rw [bigEndian, BitVec.getLsbD_or, ih, BitVec.getLsbD_shiftLeft, BitVec.getLsbD_setWidth, List.reverse_cons]
    obtain below | above := Nat.lt_or_ge j (8 * bs.length)
    · rw [List.getD_append _ _ _ _ (by rw [List.length_reverse]; omega)]
      simp [below]
    · rw [List.getD_append_right _ _ _ _ (by rw [List.length_reverse]; omega),
        List.getD_eq_default bs.reverse _ (by rw [List.length_reverse]; omega), List.length_reverse]
      obtain inByte | beyond := Nat.lt_or_ge j (8 * bs.length + 8)
      · rw [show j / 8 - bs.length = 0 by omega, show j - 8 * bs.length = j % 8 by omega, List.getD_cons_zero]
        have inWord : (decide (j < w) && decide (j % 8 < w)) = decide (j < w) := by
          simp only [← Bool.decide_and, decide_eq_decide]
          omega
        simp [Nat.not_lt.mpr above, ← Bool.and_assoc, inWord]
      · rw [List.getD_eq_default [b] _ (by rw [List.length_singleton]; omega),
          BitVec.getLsbD_of_ge b _ (by omega)]
        simp

/-- Byte `i` of a big-endian word, most significant first (R420). -/
theorem extractLsb'_bigEndian {w : Nat} {bs : List Byte} (fits : 8 * bs.length ≤ w) {i : Nat} (h : i < bs.length) :
    (bigEndian w bs).extractLsb' (8 * (bs.length - 1 - i)) 8 = bs.getD i 0 := by
  refine BitVec.eq_of_getLsbD_eq fun j hj => ?_
  rw [BitVec.getLsbD_extractLsb', getLsbD_bigEndian, show (8 * (bs.length - 1 - i) + j) / 8 = bs.length - 1 - i by omega,
    show (8 * (bs.length - 1 - i) + j) % 8 = j by omega, List.getD_reverse _ (by omega),
    show bs.length - 1 - (bs.length - 1 - i) = i by omega, decide_eq_true hj,
    decide_eq_true (show 8 * (bs.length - 1 - i) + j < w by omega), Bool.true_and, Bool.true_and]

/-- Four bytes as one word, the first the most significant (R420). -/
theorem bigEndian_four (b0 b1 b2 b3 : Byte) : bigEndian 32 [b0, b1, b2, b3] = b0 ++ b1 ++ b2 ++ b3 := by
  refine BitVec.eq_of_getLsbD_eq fun j hj => ?_
  rw [getLsbD_bigEndian]
  simp only [BitVec.getLsbD_append]
  obtain h | h | h | h : j / 8 = 0 ∨ j / 8 = 1 ∨ j / 8 = 2 ∨ j / 8 = 3 := by omega
  · simp [h, hj, show j < 8 by omega, show j % 8 = j by omega]
  · simp [h, hj, show ¬ j < 8 by omega, show j - 8 < 8 by omega, show j % 8 = j - 8 by omega]
  · simp [h, hj, show ¬ j < 8 by omega, show ¬ j - 8 < 8 by omega, show j - 8 - 8 < 8 by omega,
      show j % 8 = j - 8 - 8 by omega]
  · simp [h, hj, show ¬ j < 8 by omega, show ¬ j - 8 < 8 by omega, show ¬ j - 8 - 8 < 8 by omega,
      show j % 8 = j - 8 - 8 - 8 by omega]

theorem take_drop_eq_map_getD (b : List Byte) {k n : Nat} (h : k + n ≤ b.length) :
    (b.drop k).take n = (List.range n).map fun i => b.getD (k + i) 0 := by
  refine List.ext_getElem (by simp; omega) fun i h1 h2 => ?_
  have hi : i < n := by simpa using h2
  simp [show k + i < b.length by omega]

/-- Byte `i` of word `t` of a block is byte `n * t + i` of the block (R420). -/
theorem extractLsb'_blockWord {w n t i : Nat} {b : List Byte} (fits : 8 * n ≤ w) (inBlock : n * t + n ≤ b.length)
    (h : i < n) : (blockWord w n b t).extractLsb' (8 * (n - 1 - i)) 8 = b.getD (n * t + i) 0 := by
  have len : ((List.range n).map fun i => b.getD (n * t + i) 0).length = n := by simp
  have byte := extractLsb'_bigEndian (bs := (List.range n).map fun i => b.getD (n * t + i) 0) (w := w) (i := i)
    (by rwa [len]) (by rwa [len])
  rw [len] at byte
  rw [blockWord, take_drop_eq_map_getD b inBlock, byte]
  simp [h]

theorem blockWord_four {b : List Byte} {t : Nat} (inBlock : 4 * t + 4 ≤ b.length) : blockWord 32 4 b t =
    b.getD (4 * t) 0 ++ b.getD (4 * t + 1) 0 ++ b.getD (4 * t + 2) 0 ++ b.getD (4 * t + 3) 0 := by
  rw [← bigEndian_four, blockWord, take_drop_eq_map_getD b inBlock]
  rfl

theorem getD_wordBytes {w : Nat} (n : Nat) (x : BitVec w) {i : Nat} (h : i < n) :
    (wordBytes n x).getD i 0 = x.extractLsb' (8 * (n - 1 - i)) 8 := by
  simp [wordBytes, h]

/-- Byte `i` of the words' bytes is byte `i mod n` of word `i div n`, most significant first (R427, R436). -/
theorem getD_flatMap_wordBytes {w : Nat} (n : Nat) (ws : List (BitVec w)) {i : Nat} (h : i < n * ws.length) :
    (ws.flatMap (wordBytes n)).getD i 0 = (ws.getD (i / n) 0).extractLsb' (8 * (n - 1 - i % n)) 8 := by
  induction ws generalizing i with
  | nil => simp at h
  | cons x xs ih =>
    rw [List.flatMap_cons]
    obtain first | later := Nat.lt_or_ge i n
    · rw [List.getD_append _ _ _ _ (by rwa [wordBytes_length]), getD_wordBytes n x first, Nat.div_eq_of_lt first,
        Nat.mod_eq_of_lt first, List.getD_cons_zero]
    · rw [List.length_cons, Nat.mul_succ] at h
      have pos : 0 < n := by by_contra; simp_all
      rw [List.getD_append_right _ _ _ _ (by rwa [wordBytes_length]), wordBytes_length, ih (by omega),
        Nat.div_eq_sub_div pos later, List.getD_cons_succ, ← Nat.mod_eq_sub_mod later]

/-! ### The message schedules -/

variable {w : Nat}

theorem length_extendSchedule (next : List (BitVec w) → BitVec w) (m : Nat) (ws : List (BitVec w)) :
    (extendSchedule next m ws).length = ws.length + m := by
  induction m generalizing ws with
  | zero => rfl
  | succ m ih =>
    rw [extendSchedule, ih, List.length_cons]
    omega

theorem suffix_extendSchedule (next : List (BitVec w) → BitVec w) (m : Nat) (ws : List (BitVec w)) :
    ws <:+ extendSchedule next m ws := by
  induction m generalizing ws with
  | zero => exact List.suffix_rfl
  | succ m ih => exact (List.suffix_cons _ ws).trans (ih _)

/-- Each further word is `next` of all the words before it. -/
theorem next_suffix_extendSchedule (next : List (BitVec w) → BitVec w) {m t : Nat} {ws : List (BitVec w)}
    (lo : ws.length ≤ t) (hi : t < ws.length + m) :
    ∃ prev, prev.length = t ∧ next prev :: prev <:+ extendSchedule next m ws := by
  induction m generalizing ws with
  | zero => omega
  | succ m ih =>
    obtain here | later := lo.eq_or_lt
    · exact ⟨ws, here, suffix_extendSchedule next m _⟩
    · exact ih later (by rw [List.length_cons]; omega)

/-- Oldest first, the words so far keep their numbers when later words are added. -/
theorem getD_reverse_of_suffix {ws all : List (BitVec w)} (suffix : ws <:+ all) {t : Nat} (h : t < ws.length) :
    all.reverse.getD t 0 = ws.getD (ws.length - 1 - t) 0 := by
  obtain ⟨added, rfl⟩ := suffix
  rw [List.reverse_append, List.getD_append _ _ _ _ (by rwa [List.length_reverse]), List.getD_reverse t h]

/-- The words `next` is given for word `t` of a schedule: number `i` of them is word `t - (i + 1)`. -/
theorem getD_reverse_extendSchedule_next (next : List (BitVec w) → BitVec w) {m t : Nat} {ws : List (BitVec w)}
    (lo : ws.length ≤ t) (hi : t < ws.length + m) :
    ∃ prev, (extendSchedule next m ws).reverse.getD t 0 = next prev ∧
      ∀ i < t, prev.getD i 0 = (extendSchedule next m ws).reverse.getD (t - (i + 1)) 0 := by
  obtain ⟨prev, rfl, suffix⟩ := next_suffix_extendSchedule next lo hi
  refine ⟨prev, ?_, fun i h => ?_⟩
  · rw [getD_reverse_of_suffix suffix (by simp), List.length_cons, Nat.add_sub_cancel, Nat.sub_self, List.getD_cons_zero]
  · rw [getD_reverse_of_suffix ((List.suffix_cons _ prev).trans suffix) (by omega),
      show prev.length - 1 - (prev.length - (i + 1)) = i by omega]

theorem length_firstWords (n : Nat) (b : List Byte) : (firstWords w n b).length = 16 := by
  simp [firstWords]

/-- The first sixteen words of a schedule are the block's (R423, R434). -/
theorem getD_reverse_extendSchedule_first (next : List (BitVec w) → BitVec w) (m n : Nat) (b : List Byte) {t : Nat}
    (h : t < 16) : (extendSchedule next m (firstWords w n b)).reverse.getD t 0 = blockWord w n b t := by
  rw [getD_reverse_of_suffix (suffix_extendSchedule _ _ _) (by rwa [length_firstWords]),
    ← List.getD_reverse t (by rwa [length_firstWords])]
  simp [firstWords, h]

theorem length_sha1Schedule (b : List Byte) : (sha1Schedule b).length = 80 := by
  rw [sha1Schedule, List.length_reverse, length_extendSchedule, length_firstWords]

theorem getD_sha1Schedule_first (b : List Byte) {t : Nat} (h : t < 16) :
    (sha1Schedule b).getD t 0 = blockWord 32 4 b t :=
  getD_reverse_extendSchedule_first _ _ _ b h

/-- R423, with the words named by their numbers. -/
theorem getD_sha1Schedule_next (b : List Byte) {t : Nat} (lo : 16 ≤ t) (hi : t < 80) :
    let x := fun n => (sha1Schedule b).getD n 0
    x t = (x (t - 3) ^^^ x (t - 8) ^^^ x (t - 14) ^^^ x (t - 16)).rotateLeft 1 := by
  have len := length_firstWords (w := 32) 4 b
  obtain ⟨prev, word, before⟩ := getD_reverse_extendSchedule_next sha1NextWord (m := 64) (t := t)
    (ws := firstWords 32 4 b) (by omega) (by omega)
  rw [sha1NextWord, before 2 (by omega), before 7 (by omega), before 13 (by omega), before 15 (by omega)] at word
  exact word

theorem length_sha2Schedule {f : Sha2 w} (more : 16 ≤ f.k.length) (b : List Byte) :
    (sha2Schedule f b).length = f.k.length := by
  rw [sha2Schedule, List.length_reverse, length_extendSchedule, length_firstWords]
  omega

theorem getD_sha2Schedule_first (f : Sha2 w) (b : List Byte) {t : Nat} (h : t < 16) :
    (sha2Schedule f b).getD t 0 = blockWord w f.wordLen b t :=
  getD_reverse_extendSchedule_first _ _ _ b h

/-- R434, R443, with the words named by their numbers. -/
theorem getD_sha2Schedule_next (f : Sha2 w) (b : List Byte) {t : Nat} (lo : 16 ≤ t) (hi : t < f.k.length) :
    let x := fun n => (sha2Schedule f b).getD n 0
    x t = smallSigma f.shifts1 (x (t - 2)) + x (t - 7) + smallSigma f.shifts0 (x (t - 15)) + x (t - 16) := by
  have len := length_firstWords (w := w) f.wordLen b
  obtain ⟨prev, word, before⟩ := getD_reverse_extendSchedule_next (sha2NextWord f) (m := f.k.length - 16) (t := t)
    (ws := firstWords w f.wordLen b) (by omega) (by omega)
  rw [sha2NextWord, before 1 (by omega), before 6 (by omega), before 14 (by omega), before 15 (by omega)] at word
  exact word

theorem length_sha256K : sha256K.length = 64 := printedTable_length 32 8 _

theorem length_sha512K : sha512K.length = 80 := printedTable_length 64 4 _

end Sys2Proof.Machine

section

open Sys2Proof Sys2Proof.Machine

/-- Settles O52: the first words are the block's, and each later one is made of the words before it. -/
theorem messageSchedules : Obligations.MessageSchedules := by
  intro b len
  refine ⟨fun t ht x hx => ?_, fun t lo hi => getD_sha1Schedule_next b lo hi,
    fun t lo hi => getD_sha2Schedule_next sha256 b lo (hi.trans_eq length_sha256K.symm)⟩
  have word : x = blockWord 32 4 b t := by
    obtain rfl | rfl : x = (sha1Schedule b).getD t 0 ∨ x = (sha2Schedule sha256 b).getD t 0 := by simpa using hx
    · exact getD_sha1Schedule_first b ht
    · exact getD_sha2Schedule_first sha256 b ht
  rw [word, blockWord_four (by omega)]

end
end

section
/-! The rounds of `Compress` of SHA-1, SHA-256 and SHA-512 (45_hash_functions.md), one at a time, and the constants of
the rounds as roots of numbers. -/

namespace Sys2Proof.Machine

/-! ### SHA-1 -/

/-- The working variables before round `t`, from the chaining value `h` and the words `ws` (R425). -/
def sha1Before (ws : List Word) (h : Vector Word 5) (t : Nat) : Vector Word 5 := sha1Rounds 0 (ws.take t) h

theorem sha1Rounds_concat (t : Nat) (ws : List Word) (x : Word) (v : Vector Word 5) :
    sha1Rounds t (ws ++ [x]) v = sha1Round (t + ws.length) x (sha1Rounds t ws v) := by
  induction ws generalizing t v with
  | nil => rfl
  | cons y ys ih => rw [List.cons_append, sha1Rounds, ih, sha1Rounds, List.length_cons, Nat.add_right_comm, Nat.add_assoc]

theorem sha1Before_succ {ws : List Word} (h : Vector Word 5) {t : Nat} (lt : t < ws.length) :
    sha1Before ws h (t + 1) = sha1Round t (ws.getD t 0) (sha1Before ws h t) := by
  rw [sha1Before, List.take_succ_eq_append_getElem lt, sha1Rounds_concat, List.length_take_of_le lt.le, Nat.zero_add,
    List.getD_eq_getElem _ _ lt, sha1Before]

/-- `Compress` of SHA-1 as eighty rounds from the chaining value on, and the addition (R425). -/
theorem sha1Compress_rounds (h : Vector Word 5) (b : List Byte) : ∃ v : Nat → Vector Word 5, v 0 = h ∧
    (∀ t < 80, v (t + 1) = sha1Round t ((sha1Schedule b).getD t 0) (v t)) ∧ sha1Compress h b = addWords h (v 80) := by
  refine ⟨sha1Before (sha1Schedule b) h, rfl,
    fun t lt => sha1Before_succ h (lt.trans_eq (length_sha1Schedule b).symm), ?_⟩
  rw [sha1Compress, sha1Before, List.take_of_length_le (length_sha1Schedule b).le]

/-- R425: what a round leaves in each of the variables. -/
theorem sha1Round_eq (t : Nat) (x : Word) (v : Vector Word 5) :
    sha1Round t x v = #v[sha1Head t x v, v[0], v[1].rotateLeft 30, v[2], v[3]] := by
  ext1 i hi
  obtain rfl | rfl | rfl | rfl | rfl : i = 0 ∨ i = 1 ∨ i = 2 ∨ i = 3 ∨ i = 4 := by omega
  all_goals rfl

theorem sha1F_apply (t : Nat) (b c d : Word) : sha1F t b c d =
    if t < 20 then (b &&& c) ^^^ (~~~b &&& d)
    else if 40 ≤ t ∧ t < 60 then (b &&& c) ^^^ (b &&& d) ^^^ (c &&& d) else b ^^^ c ^^^ d := by
  simp only [sha1F]
  split_ifs <;> rfl

/-- R421: the constant of each twenty rounds is `floor(2^30 * sqrt(d))`. -/
theorem sha1K_sqrt {t : Nat} (h : t < 80) : ∃ d, [2, 3, 5, 10][t / 20]? = some d ∧
    (sha1K t).toNat ^ 2 ≤ d * 2 ^ 60 ∧ d * 2 ^ 60 < ((sha1K t).toNat + 1) ^ 2 := by
  rw [sha1K]
  obtain e | e | e | e : t / 20 = 0 ∨ t / 20 = 1 ∨ t / 20 = 2 ∨ t / 20 = 3 := by omega
  all_goals
    rw [e]
    exact ⟨_, rfl, by decide, by decide⟩

theorem isSha1Compress : IsSha1Compress sha1Compress := by
  refine ⟨sha1K, fun t ht => sha1K_sqrt ht, fun h m _ => ?_⟩
  obtain ⟨v, start, round, final⟩ := sha1Compress_rounds h m
  refine ⟨fun t => (v t)[0], fun t => (v t)[1], fun t => (v t)[2], fun t => (v t)[3], fun t => (v t)[4],
    fun i => ?_, fun t ht => ?_, fun i => ?_⟩
  · rw [← start]
    fin_cases i <;> rfl
  · simp [round t ht, sha1Round_eq, sha1Head, sha1F_apply]
  · rw [final, Fin.getElem_fin, getElem_addWords]
    fin_cases i <;> rfl

/-! ### SHA-256 and SHA-512 -/

section
variable {w : Nat} (f : Sha2 w)

/-- The working variables before round `t`, from the chaining value `h` and the words `ws` (R435). -/
def sha2Before (ws : List (BitVec w)) (h : Vector (BitVec w) 8) (t : Nat) : Vector (BitVec w) 8 :=
  sha2Rounds f (f.k.take t) (ws.take t) h

theorem sha2Rounds_concat {ks ws : List (BitVec w)} (len : ks.length = ws.length) (k x : BitVec w)
    (v : Vector (BitVec w) 8) :
    sha2Rounds f (ks ++ [k]) (ws ++ [x]) v = sha2Round f k x (sha2Rounds f ks ws v) := by
  induction ks generalizing ws v with
  | nil =>
    obtain rfl := List.length_eq_zero_iff.mp len.symm
    rfl
  | cons y ys ih =>
    obtain ⟨z, zs, rfl⟩ := List.exists_cons_of_length_eq_add_one len.symm
    rw [List.cons_append, List.cons_append, sha2Rounds, ih (Nat.succ.inj len), sha2Rounds]

theorem sha2Before_succ {ws : List (BitVec w)} (h : Vector (BitVec w) 8) {t : Nat} (lt : t < f.k.length)
    (len : ws.length = f.k.length) :
    sha2Before f ws h (t + 1) = sha2Round f (f.k.getD t 0) (ws.getD t 0) (sha2Before f ws h t) := by
  have lt' : t < ws.length := by omega
  rw [sha2Before, List.take_succ_eq_append_getElem lt, List.take_succ_eq_append_getElem lt',
    sha2Rounds_concat f (by rw [List.length_take_of_le lt.le, List.length_take_of_le lt'.le]),
    List.getD_eq_getElem _ _ lt, List.getD_eq_getElem _ _ lt', sha2Before]

/-- `Compress` of SHA-2 as one round for each constant, from the chaining value on, and the addition (R435, R443). -/
theorem sha2Compress_rounds (more : 16 ≤ f.k.length) (h : Vector (BitVec w) 8) (b : List Byte) :
    ∃ v : Nat → Vector (BitVec w) 8, v 0 = h ∧
      (∀ t < f.k.length, v (t + 1) = sha2Round f (f.k.getD t 0) ((sha2Schedule f b).getD t 0) (v t)) ∧
      sha2Compress f h b = addWords h (v f.k.length) := by
  have len := length_sha2Schedule more b
  refine ⟨sha2Before f (sha2Schedule f b) h, by simp [sha2Before, sha2Rounds], fun t lt => sha2Before_succ f h lt len, ?_⟩
  rw [sha2Compress, sha2Before, List.take_length, List.take_of_length_le len.le]

/-- R435: what a round leaves in each of the variables. -/
theorem sha2Round_eq (k x : BitVec w) (v : Vector (BitVec w) 8) :
    sha2Round f k x v = #v[sha2T1 f k x v + sha2T2 f v, v[0], v[1], v[2], v[3] + sha2T1 f k x v, v[4], v[5], v[6]] := by
  ext1 i hi
  obtain rfl | rfl | rfl | rfl | rfl | rfl | rfl | rfl :
    i = 0 ∨ i = 1 ∨ i = 2 ∨ i = 3 ∨ i = 4 ∨ i = 5 ∨ i = 6 ∨ i = 7 := by omega
  all_goals rfl

/-- `k` is the first `w` bits of the fractional part of the cube root of `p` (R431, R441). -/
def IsCubeRootFraction (p : Nat) (k : BitVec w) : Prop :=
  ∃ x, x ^ 3 ≤ p * 2 ^ (3 * w) ∧ p * 2 ^ (3 * w) < (x + 1) ^ 3 ∧ k = BitVec.ofNat w x

/-- A function built from `f`'s parts is the spec's, if the constants are. -/
theorem isSha2Compress (fits : 8 * f.wordLen ≤ w) (more : 16 ≤ f.k.length)
    (constants : ∀ t < f.k.length, IsCubeRootFraction (Nat.nth Nat.Prime t) (f.k.getD t 0)) :
    IsSha2Compress f.wordLen f.k.length f.rotations0 f.rotations1 f.shifts0 f.shifts1 (sha2Compress f) := by
  refine ⟨fun t => f.k.getD t 0, constants, fun hash m len => ?_⟩
  obtain ⟨v, start, round, final⟩ := sha2Compress_rounds f more hash m
  refine ⟨fun t => (sha2Schedule f m).getD t 0, fun t => (v t)[0], fun t => (v t)[1], fun t => (v t)[2],
    fun t => (v t)[3], fun t => (v t)[4], fun t => (v t)[5], fun t => (v t)[6], fun t => (v t)[7],
    fun t ht i hi => ?_, fun t lo hi => getD_sha2Schedule_next f m lo hi, fun i => ?_, fun t ht => ?_, fun i => ?_⟩
  · have inBlock : f.wordLen * t + f.wordLen ≤ m.length := by
      rw [len, ← Nat.mul_succ, Nat.mul_comm]
      exact Nat.mul_le_mul_right _ ht
    simp only [getD_sha2Schedule_first f m ht]
    exact extractLsb'_blockWord fits inBlock hi
  · rw [← start]
    fin_cases i <;> rfl
  · simp [round t ht, sha2Round_eq, sha2T1, sha2T2, bigSigma, hashCh, hashMaj]
  · rw [final, Fin.getElem_fin, getElem_addWords]
    fin_cases i <;> rfl

end

/-! ### The constants of SHA-2 -/

/-- The numbers below `n` that satisfy `p`, in order, are the first ones that do. -/
theorem nth_eq_of_filter_range (p : Nat → Prop) [DecidablePred p] {n t x : Nat}
    (h : ((List.range n).filter p)[t]? = some x) : Nat.nth p t = x := by
  induction n with
  | zero => simp at h
  | succ n ih =>
    rw [List.range_succ, List.filter_append] at h
    obtain before | last := Nat.lt_or_ge t ((List.range n).filter p).length
    · rw [List.getElem?_append_left before] at h
      exact ih h
    · rw [List.getElem?_append_right last] at h
      by_cases pn : p n
      · obtain ⟨first, rfl⟩ : t - ((List.range n).filter p).length = 0 ∧ n = x := by
          simpa [pn, List.getElem?_singleton] using h
        have count : t = Nat.count p n := by
          rw [Nat.count, List.countP_eq_length_filter]
          omega
        rw [count, Nat.nth_count pn]
      · simp [pn] at h

/-- The first eighty primes: one for each constant of SHA-512. -/
def firstPrimes : List Nat :=
  [2, 3, 5, 7, 11, 13, 17, 19, 23, 29, 31, 37, 41, 43, 47, 53, 59, 61, 67, 71, 73, 79, 83, 89, 97, 101, 103, 107,
   109, 113, 127, 131, 137, 139, 149, 151, 157, 163, 167, 173, 179, 181, 191, 193, 197, 199, 211, 223, 227, 229,
   233, 239, 241, 251, 257, 263, 269, 271, 277, 281, 283, 293, 307, 311, 313, 317, 331, 337, 347, 349, 353, 359,
   367, 373, 379, 383, 389, 397, 401, 409]

/-- Below 529, the square of 23, trial division by the numbers below 23 decides whether a number is prime. -/
theorem prime_iff_trial_division {n : Nat} (h : n < 529) : n.Prime ↔ 2 ≤ n ∧ ∀ m < 23, 2 ≤ m → m ∣ n → m = n := by
  refine ⟨fun pr => ⟨pr.two_le, fun m _ hm dvd => ((Nat.dvd_prime pr).mp dvd).resolve_left (by omega)⟩,
    fun ⟨two, trial⟩ => ?_⟩
  by_contra composite
  have small : n.minFac < 23 := by nlinarith [Nat.minFac_sq_le_self (by omega) composite]
  have whole := trial _ small (Nat.minFac_prime (by omega)).two_le (Nat.minFac_dvd n)
  exact composite (whole ▸ Nat.minFac_prime (by omega))

theorem filter_prime_range : (List.range 410).filter Nat.Prime = firstPrimes := by
  rw [List.filter_congr (q := fun n => 2 ≤ n ∧ ∀ m < 23, 2 ≤ m → m ∣ n → m = n)
    fun n hn => decide_eq_decide.mpr (prime_iff_trial_division (by rw [List.mem_range] at hn; omega))]
  decide +kernel
theorem nth_prime_eq {t : Nat} (h : t < 80) : Nat.nth Nat.Prime t = firstPrimes.getD t 0 := by
  refine nth_eq_of_filter_range Nat.Prime (n := 410) ?_
  rw [filter_prime_range, List.getD_eq_getElem _ _ h]
  exact List.getElem?_eq_getElem h

/-- `q` is the whole part of the cube root of `p`, and `k` the first bits of its fractional part. -/
theorem isCubeRootFraction_of_whole {w p q : Nat} {k : BitVec w}
    (lower : (q * 2 ^ w + k.toNat) ^ 3 ≤ p * 2 ^ (3 * w))
    (upper : p * 2 ^ (3 * w) < (q * 2 ^ w + k.toNat + 1) ^ 3) : IsCubeRootFraction p k :=
  ⟨_, lower, upper, BitVec.eq_of_toNat_eq (by
    rw [BitVec.toNat_ofNat, Nat.mul_comm, Nat.mul_add_mod, Nat.mod_eq_of_lt k.isLt])⟩

/-- Found by search for `q`: the cube roots of these primes are below 8. -/
theorem sha256K_cubeRoot : ∀ t < 64, ∃ q < 8,
    (q * 2 ^ 32 + (sha256K.getD t 0).toNat) ^ 3 ≤ firstPrimes.getD t 0 * 2 ^ (3 * 32) ∧
    firstPrimes.getD t 0 * 2 ^ (3 * 32) < (q * 2 ^ 32 + (sha256K.getD t 0).toNat + 1) ^ 3 := by
  decide +kernel

theorem sha512K_cubeRoot : ∀ t < 80, ∃ q < 8,
    (q * 2 ^ 64 + (sha512K.getD t 0).toNat) ^ 3 ≤ firstPrimes.getD t 0 * 2 ^ (3 * 64) ∧
    firstPrimes.getD t 0 * 2 ^ (3 * 64) < (q * 2 ^ 64 + (sha512K.getD t 0).toNat + 1) ^ 3 := by
  decide +kernel

/-- R431. -/
theorem isCubeRootFraction_sha256K {t : Nat} (h : t < 64) :
    IsCubeRootFraction (Nat.nth Nat.Prime t) (sha256K.getD t 0) := by
  obtain ⟨q, -, lower, upper⟩ := sha256K_cubeRoot t h
  rw [nth_prime_eq (by omega)]
  exact isCubeRootFraction_of_whole lower upper

/-- R441. -/
theorem isCubeRootFraction_sha512K {t : Nat} (h : t < 80) :
    IsCubeRootFraction (Nat.nth Nat.Prime t) (sha512K.getD t 0) := by
  obtain ⟨q, -, lower, upper⟩ := sha512K_cubeRoot t h
  rw [nth_prime_eq h]
  exact isCubeRootFraction_of_whole lower upper

/-! ### The functions of the spec -/

theorem isSha2Compress_sha256 :
    IsSha2Compress 4 64 (2, 13, 22) (6, 11, 25) (7, 18, 3) (17, 19, 10) (sha2Compress sha256) := by
  rw [← length_sha256K]
  exact isSha2Compress sha256 (by decide) (by rw [sha256, length_sha256K]; decide)
    fun t ht => isCubeRootFraction_sha256K (ht.trans_eq length_sha256K)

theorem isSha2Compress_sha512 :
    IsSha2Compress 8 80 (28, 34, 39) (14, 18, 41) (1, 8, 7) (19, 61, 6) (sha2Compress sha512) := by
  rw [← length_sha512K]
  exact isSha2Compress sha512 (by decide) (by rw [sha512, length_sha512K]; decide)
    fun t ht => isCubeRootFraction_sha512K (ht.trans_eq length_sha512K)

/-- R427. -/
theorem getD_digest_sha1 (h : Vector Word 5) {i : Nat} (lt : i < 20) :
    (HashState.sha1 h).digest.getD i 0 = (h.toList.getD (i / 4) 0).extractLsb' (8 * (3 - i % 4)) 8 :=
  getD_flatMap_wordBytes 4 h.toList (by rwa [Vector.length_toList])

/-- R436. -/
theorem getD_digest_sha256 (h : Vector Word 8) {i : Nat} (lt : i < 32) :
    (HashState.sha256 h).digest.getD i 0 = (h.toList.getD (i / 4) 0).extractLsb' (8 * (3 - i % 4)) 8 :=
  getD_flatMap_wordBytes 4 h.toList (by rwa [Vector.length_toList])

end Sys2Proof.Machine

section

open Sys2Proof Sys2Proof.Machine

/-- Settles O53: the working variables before each round are the sequences of the rule, and the bytes of a digest are
those of its words. -/
theorem compressionRounds : Obligations.CompressionRounds :=
  ⟨isSha1Compress, isSha2Compress_sha256, isSha2Compress_sha512,
    fun h _ => ⟨rfl, digest_length (.sha1 h), fun _ lt => getD_digest_sha1 h lt⟩,
    fun h _ => ⟨rfl, digest_length (.sha256 h), fun _ lt => getD_digest_sha256 h lt⟩⟩

end
end

section
/-! What the host does before its first engine command (46_host_protocol.md R480 to R492): every outcome of the Reader,
and what a run needs to reach its driver program. -/

namespace Sys2Proof.Machine

/-! ### Exact-length reads -/

theorem readExact_of_le {f : List Byte} {off len : Nat} (whole : off + len ≤ f.length) :
    readExact f off len = .ok ((f.drop off).take len) := by
  rw [readExact, if_pos whole]

theorem readExact_of_lt {f : List Byte} {off len : Nat} (short : f.length < off + len) :
    readExact f off len = .error .io := by
  rw [readExact, if_neg (Nat.not_le.mpr short)]

theorem readByte_of_lt {f : List Byte} {off : Nat} (present : off < f.length) :
    readByte f off = .ok (f.getD off 0) := by
  rw [readByte, readExact_of_le present]
  simp [Except.map, present]

theorem readByte_of_le {f : List Byte} {off : Nat} (absent : f.length ≤ off) : readByte f off = .error .io := by
  rw [readByte, readExact_of_lt (Nat.lt_succ_of_le absent)]
  rfl

/-- A read is whole or an `IOError`, so before what ends in an `IOError` it does not matter which (R480). -/
theorem readExact_bind_eq_io {α : Type} {f : List Byte} {off len : Nat} {next : List Byte → Except HostError α}
    (h : ∀ bs, next bs = .error .io) : readExact f off len >>= next = .error .io := by
  rcases Nat.lt_or_ge f.length (off + len) with short | whole
  · rw [readExact_of_lt short]
    rfl
  · rw [readExact_of_le whole]
    exact h _

theorem readByte_bind_eq_io {α : Type} {f : List Byte} {off : Nat} {next : Byte → Except HostError α}
    (h : ∀ b, next b = .error .io) : readByte f off >>= next = .error .io := by
  rcases Nat.lt_or_ge off f.length with present | absent
  · rw [readByte_of_lt present]
    exact h _
  · rw [readByte_of_le absent]
    rfl

/-! ### The Reader -/

/-- What the Reader does once the version is accepted: the minor byte and the fields (R481, R485). -/
def readFields (f : List Byte) : Except HostError Container := do
  let _minor ← readByte f 0x04
  let iv ← readExact f 0x43 16
  let salt ← readExact f 0x53 16
  let pwhash ← readExact f 0x63 64
  if f.length ≤ 0xC3 then .error .io else
    let data ← readExact f 0xA3 (f.length - 0x20 - 0xA3)
    let ck ← readExact f (f.length - 0x20) 0x20
    return { iv := padTo 16 iv, salt := salt, pwhash := pwhash, data := data, ck := padTo 32 ck }

/-- What the Reader does once the magic signature is accepted: the version check and what follows it (R483). -/
def readVersioned (major : Byte) (f : List Byte) : Except HostError Container := do
  let version ← readByte f 0x03
  if version ≠ major then .error (.unsupportedVersion version f[4]?) else readFields f

/-- The Reader is the signature check and what follows it (R482). -/
theorem readContainer_eq_bind (magic : Bytes 3) (major : Byte) (f : List Byte) :
    readContainer magic major f =
      readExact f 0x00 3 >>= fun sig => if sig ≠ magic.toList then .error .format else readVersioned major f := rfl

theorem readContainer_of_magic {magic : Bytes 3} {f : List Byte} (major : Byte) (long : 3 ≤ f.length)
    (sig : f.take 3 = magic.toList) : readContainer magic major f = readVersioned major f := by
  rw [readContainer_eq_bind, readExact_of_le long]
  exact if_neg (not_not.mpr sig)

theorem readContainer_of_bad_magic {magic : Bytes 3} {f : List Byte} (major : Byte) (long : 3 ≤ f.length)
    (sig : f.take 3 ≠ magic.toList) : readContainer magic major f = .error .format := by
  rw [readContainer_eq_bind, readExact_of_le long]
  exact if_pos sig

theorem readVersioned_of_supported {major : Byte} {f : List Byte} (long : 4 ≤ f.length)
    (version : f.getD 3 0 = major) : readVersioned major f = readFields f := by
  rw [readVersioned, readByte_of_lt long]
  exact if_neg (not_not.mpr version)

theorem readVersioned_of_unsupported {major : Byte} {f : List Byte} (long : 4 ≤ f.length)
    (version : f.getD 3 0 ≠ major) :
    readVersioned major f = .error (.unsupportedVersion (f.getD 3 0) f[4]?) := by
  rw [readVersioned, readByte_of_lt long]
  exact if_pos version

/-- A file too short for a data region fails, at whichever read or check comes first (R485). -/
theorem readFields_of_le {f : List Byte} (short : f.length ≤ 0xC3) : readFields f = .error .io :=
  readByte_bind_eq_io fun _ => readExact_bind_eq_io fun _ => readExact_bind_eq_io fun _ => readExact_bind_eq_io fun _ =>
    if_pos short

theorem readFields_of_lt {f : List Byte} (long : 0xC3 < f.length) :
    readFields f = .ok
      { iv := padTo 16 ((f.drop 0x43).take 16), salt := (f.drop 0x53).take 16, pwhash := (f.drop 0x63).take 64,
        data := (f.drop 0xA3).take (f.length - 0xC3), ck := padTo 32 (f.drop (f.length - 0x20)) } := by
  have checksum : (f.drop (f.length - 0x20)).take 0x20 = f.drop (f.length - 0x20) :=
    List.take_of_length_le (by rw [List.length_drop]; omega)
  rw [readFields, readByte_of_lt (by omega), readExact_of_le (by omega), readExact_of_le (by omega),
    readExact_of_le (by omega), readExact_of_le (by omega), readExact_of_le (by omega), checksum, Nat.sub_sub]
  exact if_neg (Nat.not_le.mpr long)

/-! ### The plan of a run -/

theorem except_bind_eq_ok_iff {ε α β : Type} (x : Except ε α) (next : α → Except ε β) (b : β) :
    (x >>= next) = .ok b ↔ ∃ a, x = .ok a ∧ next a = .ok b := by
  cases x with
  | error e => simp [bind, Except.bind]
  | ok a => simp [bind, Except.bind]

/-- The checks of a run in their order, and the driver program at their end (R497). -/
theorem planRun_eq_bind (stripExt : Path → Path) (r : RunRequest) :
    planRun stripExt r =
      r.file.elim (.error .io) (readContainer r.magic r.supportedMajor) >>= fun c =>
        checkPassword r.override (deriveHash r.password c.salt) c.pwhash >>= fun _ =>
          checkDestination stripExt r >>= fun _ =>
            .ok (driverLines (derivedKey (deriveHash r.password c.salt)) c r.shortChunk) := by
  unfold planRun
  cases r.file with
  | none => rfl
  | some f => rfl

/-- What a run needs to reach its driver program, and which program it then is. -/
theorem planRun_eq_ok_iff (stripExt : Path → Path) (r : RunRequest) (p : List HostLine) :
    planRun stripExt r = .ok p ↔ ∃ c, r.file.elim (.error .io) (readContainer r.magic r.supportedMajor) = .ok c ∧
      checkPassword r.override (deriveHash r.password c.salt) c.pwhash = .ok () ∧ checkDestination stripExt r = .ok () ∧
      driverLines (derivedKey (deriveHash r.password c.salt)) c r.shortChunk = p := by
  simp only [planRun_eq_bind, except_bind_eq_ok_iff, Except.ok.injEq, Unique.exists_iff]

theorem checkPassword_override (h pwhash : List Byte) : checkPassword true h pwhash = .ok () := rfl

theorem checkPassword_of_wrong {h pwhash : List Byte} (wrong : h ≠ pwhash) :
    checkPassword false h pwhash = .error .authentication := by
  simp [checkPassword, wrong]

/-- A dry run has no destination to check (R491). -/
theorem checkDestination_of_dryRun (stripExt : Path → Path) {r : RunRequest} (dry : r.dryRun = true) :
    checkDestination stripExt r = .ok () := by
  rw [checkDestination, outputPathOf, if_pos dry]

/-! ### A run that fails before its driver program -/

theorem planRun_of_wrong_password {stripExt : Path → Path} {r : RunRequest} {f : List Byte} {c : Container}
    (file : r.file = some f) (read : readContainer r.magic r.supportedMajor f = .ok c) (check : r.override = false)
    (wrong : deriveHash r.password c.salt ≠ c.pwhash) : planRun stripExt r = .error .authentication := by
  rw [planRun_eq_bind, file, Option.elim_some, read]
  change checkPassword r.override _ _ >>= _ = _
  rw [check, checkPassword_of_wrong wrong]
  rfl

theorem startRun_of_error {stripExt : Path → Path} {r : RunRequest} {e : HostError} (s : State)
    (h : planRun stripExt r = .error e) :
    startRun stripExt r s =
      { s with host := { HostAgent.idle with outcome := .failed e, outputFile := r.existing } } := by
  rw [startRun, h]

/-- A host with no statement to perform changes nothing by its step. -/
theorem hostStep_of_nextStmt_eq_none {s : State} (h : s.host.nextStmt = none) : hostStep s = .next s := by
  rw [hostStep, h]

end Sys2Proof.Machine

section

open Sys2Proof Sys2Proof.Machine

/-- Settles O54: each outcome is that of the first read or check that fails. -/
theorem readerOutcomes : Obligations.ReaderOutcomes := by
  intro magic major f
  refine ⟨fun short => ?_, readContainer_of_bad_magic major, fun short sig => ?_, fun long sig version => ?_,
    fun long short sig version => ?_, fun long sig version => ?_⟩
  · rw [readContainer_eq_bind, readExact_of_lt short]
    rfl
  · rw [readContainer_of_magic major short.ge sig, readVersioned, readByte_of_le short.le]
    rfl
  · rw [readContainer_of_magic major (Nat.le_of_succ_le long) sig, readVersioned_of_unsupported long version]
  · rw [readContainer_of_magic major (Nat.le_of_succ_le long) sig, readVersioned_of_supported long version,
      readFields_of_le short]
  · rw [readContainer_of_magic major (by omega) sig, readVersioned_of_supported (by omega) version,
      readFields_of_lt long]

/-- Settles O55: the plan is the authentication error, and the host it leaves has ended its run. -/
theorem wrongPasswordStops : Obligations.WrongPasswordStops := by
  intro stripExt s r f c file read check wrong t
  have failed : t = _ := startRun_of_error s (planRun_of_wrong_password file read check wrong)
  rw [failed]
  exact ⟨rfl, rfl, rfl, rfl, hostStep_of_nextStmt_eq_none rfl⟩

/-- Settles O56: override and the no-write flag are read by the two checks alone, and both let the run pass. -/
theorem sameDriverProgram : Obligations.SameDriverProgram := by
  intro stripExt r p h
  obtain ⟨c, read, password, destination, program⟩ := (planRun_eq_ok_iff stripExt r p).mp h
  refine ⟨(planRun_eq_ok_iff _ _ _).mpr ⟨c, read, checkPassword_override _ _, ?_, program⟩,
    (planRun_eq_ok_iff _ _ _).mpr ⟨c, read, password, checkDestination_of_dryRun stripExt rfl, program⟩⟩
  exact destination

end
end

section
/-! The chunk loop (46_host_protocol.md R489, R490): the lines of a data region do not depend on how it is cut into
chunks. -/

namespace Sys2Proof.Machine

/-! ### The lines of a run of blocks -/

theorem blocksLines_succ (n : Nat) (d : List Byte) :
    blocksLines (n + 1) d = blockLines (padTo 16 (d.take 16)) ++ blocksLines n (d.drop 16) := rfl

theorem blocksLines_add (m n : Nat) (d : List Byte) :
    blocksLines (m + n) d = blocksLines m d ++ blocksLines n (d.drop (16 * m)) := by
  induction m generalizing d with
  | zero => simp [blocksLines]
  | succ m ih => rw [Nat.succ_add, blocksLines_succ, blocksLines_succ, ih, List.drop_drop, List.append_assoc,
      Nat.mul_succ, Nat.add_comm 16]

/-- The first `n` blocks are in the first `16 * n` bytes. -/
theorem blocksLines_take {n k : Nat} (h : 16 * n ≤ k) (d : List Byte) :
    blocksLines n (d.take k) = blocksLines n d := by
  induction n generalizing k d with
  | zero => rfl
  | succ n ih =>
    rw [blocksLines_succ, blocksLines_succ, List.take_take, Nat.min_eq_left (by omega), List.drop_take,
      ih (by omega)]

/-! ### Chunks -/

theorem chunkLines_short_zero (fuel : Nat) (d : List Byte) :
    chunkLines (some 0) fuel d = [.step (.fail .io)] := by
  cases fuel <;> rfl

/-- The chunk loop ends at a region that is no longer than a chunk. -/
theorem chunkLines_none_of_le (fuel : Nat) {d : List Byte} (h : d.length ≤ 131072) :
    chunkLines none fuel d = finalChunkLines d := by
  cases fuel with
  | zero => rfl
  | succ fuel => exact if_neg (Nat.not_lt.mpr h)

/-- One turn of the chunk loop. -/
theorem chunkLines_of_lt {short : Option Nat} (read : short ≠ some 0) (fuel : Nat) {d : List Byte}
    (h : 131072 < d.length) :
    chunkLines short (fuel + 1) d =
      blocksLines 8192 d ++ chunkLines (short.map (· - 1)) fuel (d.drop 131072) := by
  rw [← blocksLines_take (k := 131072) (by decide)]
  rcases short with _ | _ | k
  · exact if_pos h
  · exact absurd rfl read
  · exact if_pos h

/-- The first `j` turns of the chunk loop, none of whose reads comes short, send the blocks of the first `j` chunks. -/
theorem chunkLines_add (j fuel : Nat) {short : Option Nat} {d : List Byte} (read : ∀ k ∈ short, j ≤ k)
    (long : 131072 * j < d.length) :
    chunkLines short (fuel + j) d =
      blocksLines (8192 * j) d ++ chunkLines (short.map (· - j)) fuel (d.drop (131072 * j)) := by
  induction j generalizing short d with
  | zero => simp [blocksLines]
  | succ j ih =>
    have first : short ≠ some 0 := by
      rintro rfl
      exact absurd (read 0 rfl) (by omega)
    have rest : ∀ k ∈ short.map (· - 1), j ≤ k := by
      intro k hk
      obtain ⟨i, hi, rfl⟩ := Option.mem_map.mp hk
      have := read i hi
      omega
    have subs : (fun k => k - j) ∘ (· - 1) = fun k => k - (j + 1) := by
      funext k
      simp [Nat.sub_sub, Nat.add_comm]
    rw [← Nat.add_assoc, chunkLines_of_lt first _ (by omega), ih rest (by rw [List.length_drop]; omega),
      Option.map_map, subs, List.drop_drop, Nat.mul_succ, Nat.mul_succ, Nat.add_comm (8192 * j), blocksLines_add,
      List.append_assoc, Nat.add_comm (131072 * j)]

/-- All the chunks but the final one, when every read is whole. -/
theorem chunkLines_none_eq {d : List Byte} (pos : 0 < d.length) :
    chunkLines none (d.length / 131072) d =
      blocksLines (8192 * ((d.length - 1) / 131072)) d ++
        finalChunkLines (d.drop (131072 * ((d.length - 1) / 131072))) := by
  obtain ⟨fuel, hfuel⟩ := Nat.exists_eq_add_of_le' (show (d.length - 1) / 131072 ≤ d.length / 131072 by omega)
  rw [hfuel, chunkLines_add _ fuel (by simp) (by omega), Option.map_none,
    chunkLines_none_of_le fuel (by rw [List.length_drop]; omega)]

/-! ### The final chunk -/

theorem finalChunkLines_of_partial {d : List Byte} (h : d.length % 16 ≠ 0) :
    finalChunkLines d = [.step (.fail .paddingLength)] := if_pos h

/-- Whole chunks and a final chunk of whole blocks are the blocks of the region, the last one by `DECRYPT_FINAL`. -/
theorem blocksLines_append_finalChunkLines {d : List Byte} (h : d.length % 16 = 0) {m : Nat}
    (before : 16 * m < d.length) :
    blocksLines m d ++ finalChunkLines (d.drop (16 * m)) =
      blocksLines (d.length / 16 - 1) d ++ finalBlockLines (padTo 16 (d.drop (d.length - 16))) := by
  have blocks : m + ((d.length - 16 * m) / 16 - 1) = d.length / 16 - 1 := by omega
  have last : 16 * m + 16 * ((d.length - 16 * m) / 16 - 1) = d.length - 16 := by omega
  rw [finalChunkLines, List.length_drop, if_neg (by omega), List.drop_drop, last, ← List.append_assoc,
    ← blocksLines_add, blocks]

end Sys2Proof.Machine

section

open Sys2Proof Sys2Proof.Machine

/-- Settles O57: by induction on the chunks before the one at which the loop ends. -/
theorem chunksInvisible : Obligations.ChunksInvisible := by
  intro d pos
  have chunkBytes : 131072 * ((d.length - 1) / 131072) = 16 * (8192 * ((d.length - 1) / 131072)) := by omega
  refine ⟨fun whole => ?_, fun part => ?_, fun k hk => ?_⟩
  · rw [chunkLines_none_eq pos, chunkBytes, blocksLines_append_finalChunkLines whole (by omega)]
  · rw [chunkLines_none_eq pos, finalChunkLines_of_partial (by rw [List.length_drop]; omega)]
  · obtain ⟨fuel, hfuel⟩ := Nat.exists_eq_add_of_le' (show k ≤ d.length / 131072 by omega)
    rw [hfuel, chunkLines_add k fuel (by simp) (by omega), Option.map_some, Nat.sub_self, chunkLines_short_zero]

end
end

section
/-! The report (46_host_protocol.md R494, R495): the statements that keep and print a register group, the digits of a
hex string, and the exit status. -/

namespace Sys2Proof.Machine

/-! ### Statements one after the other -/

theorem performStmts_cons {st : Stmt} {s t : State} (p : List Stmt) (h : performStmt st s = .next t) :
    performStmts (st :: p) s = performStmts p t := by
  rw [performStmts, h]

theorem performStmts_append {p : List Stmt} {s t : State} (q : List Stmt) (h : performStmts p s = .next t) :
    performStmts (p ++ q) s = performStmts q t := by
  induction p generalizing s with
  | nil =>
    injection h with h
    rw [h, List.nil_append]
  | cons st p ih =>
    rcases performStmt_outcome st s with ⟨u, e⟩ | ⟨_, _, _, e⟩ <;> rw [performStmts, e] at h
    · rw [List.cons_append, performStmts_cons _ e]
      exact ih h
    · cases h

/-- No register shows anything of the host. -/
@[simp] theorem readRegister_onHost (f : HostAgent → HostAgent) (s : State) (r : RegName) :
    readRegister (s.onHost f) r = readRegister s r := by
  cases r <;> simp [readRegister, State.statusWord, State.errBitSet]

/-! ### Keeping the words of a register group -/

/-- Statements that keep registers leave their words' bytes kept, in order, and nothing else changed. -/
theorem performStmts_collect {α : Type} (r : α → RegName) (ks : List α) (s : State) :
    performStmts (ks.map fun k => .collect (r k)) s =
      .next (s.onHost fun h => { h with buffer := h.buffer ++ unpack (ks.map fun k => readRegister s (r k)) }) := by
  induction ks generalizing s with
  | nil => simp [performStmts, unpack, State.onHost]
  | cons k ks ih =>
    rw [List.map_cons, performStmts_cons _ rfl, ih]
    simp only [readRegister_onHost, List.map_cons, unpack_cons]
    simp [State.onHost, HostAgent.keep]

/-- The words of a register group that shows an array are the array's bytes. -/
theorem unpack_finRange_wordAt {n m : Nat} (hn : n = 4 * m) (a : Bytes n) :
    unpack ((List.finRange m).map fun k => wordAt a k.val) = a.toList := by
  calc unpack ((List.finRange m).map fun k => wordAt a k.val)
    _ = unpack (((List.finRange m).map Fin.val).map (wordAt a)) := by rw [List.map_map]; rfl
    _ = (List.range (4 * m)).map (byteAt a) := by rw [List.map_coe_finRange_eq_range, unpack_map_wordAt]
    _ = (List.range n).map (byteAt a) := congrArg (fun k => (List.range k).map (byteAt a)) hn.symm
    _ = a.toList := map_byteAt_range a

/-- Keeping a whole group and printing `len` of its bytes adds one hex string to what is printed, and leaves no byte
kept (R495). -/
theorem performStmts_collect_print {n m lo len c : Nat} (hn : n = 4 * m) {r : Fin m → RegName} {lenReg : RegName}
    {s : State} {a : Bytes n} (p : List Stmt) (empty : s.host.buffer = [])
    (words : ∀ k, readRegister s (r k) = wordAt a k.val)
    (count : ((readRegister s lenReg).extractLsb' lo len).toNat = c) :
    performStmts ((List.finRange m).map (fun k => .collect (r k)) ++ .print lenReg lo len :: p) s =
      performStmts p
        (s.onHost fun h => { h with buffer := [], printed := h.printed ++ [toHex (a.toList.take c)] }) := by
  rw [performStmts_append _ (performStmts_collect r _ s), performStmts_cons _ rfl]
  simp only [words, unpack_finRange_wordAt hn, readRegister_onHost, count]
  simp [State.onHost, HostAgent.printBytes, empty]

/-! ### The lengths and the outcome of the report -/

/-- `EXP_LEN` is bits [5:0] of its register (R68). -/
theorem toNat_expLenField {s : State} (h : s.expLen ≤ 32) :
    ((readRegister s .expLen).extractLsb' 0 6).toNat = s.expLen := by
  rw [← BitVec.shiftLeft_zero (readRegister s .expLen), readRegister, extractLsb'_field_same _ 0 (by decide),
    BitVec.toNat_ofNat, Nat.mod_eq_of_lt (by omega)]

/-- `HASH_LEN` is bits [13:8] of `CFG` (R46). -/
theorem toNat_hashLenField (s : State) : ((readRegister s .cfg).extractLsb' 8 6).toNat = s.hashAlg.hashLen := by
  rw [readRegister]
  cases s.hashAlg with
  | sha1 => rfl
  | sha256 => rfl

theorem reportOutcome_statusWord (s : State) :
    reportOutcome s.statusWord = if s.matchBit then .success else .integrityWarning := by
  obtain ⟨_, _, _, _, matched, _⟩ := statusWord_fields s
  rw [reportOutcome, getLsbD_eq_of_extractLsb' matched]

/-! ### The report -/

/-- The statements of the report: each group is kept and printed, then `MATCH` is looked at (R495). -/
theorem expandProgram_reportLines :
    expandProgram reportLines =
      (List.finRange 8).map (fun k => .collect (.exp k)) ++ .print .expLen 0 6 ::
        ((List.finRange 8).map (fun k => .collect (.digest k)) ++ .print .cfg 8 6 :: [.report]) := rfl

theorem performStmts_reportLines {s : State} (fits : s.expLen ≤ 32) (empty : s.host.buffer = []) :
    performStmts (expandProgram reportLines) s = .next { s with host := { s.host with
      printed := s.host.printed ++ [toHex (s.exp.toList.take s.expLen), toHex (s.digest.toList.take s.hashAlg.hashLen)]
      outcome := if s.matchBit then .success else .integrityWarning } } := by
  rw [expandProgram_reportLines,
    performStmts_collect_print rfl _ empty (fun k => rfl) (toNat_expLenField fits),
    performStmts_collect_print rfl _ rfl (fun k => rfl) (toNat_hashLenField _), performStmts_cons _ rfl]
  simp only [readRegister_onHost]
  simp [performStmts, readRegister, reportOutcome_statusWord, State.onHost, HostAgent.finish, empty]

/-! ### Hex strings -/

theorem hexDigit_eq_digitChar (n : BitVec 4) : hexDigit n = Nat.digitChar n.toNat := by
  revert n
  decide

theorem toHex_cons (b : Byte) (bs : List Byte) :
    toHex (b :: bs) = Nat.digitChar (b.toNat / 16) :: Nat.digitChar (b.toNat % 16) :: toHex bs := by
  have high : (b.extractLsb' 4 4).toNat = b.toNat / 16 := by
    rw [BitVec.extractLsb'_toNat, Nat.shiftRight_eq_div_pow]
    omega
  have low : (b.extractLsb' 0 4).toNat = b.toNat % 16 := by
    rw [BitVec.extractLsb'_toNat, Nat.shiftRight_zero]
  rw [← high, ← low, ← hexDigit_eq_digitChar, ← hexDigit_eq_digitChar]
  rfl

theorem isHexOf_toHex (bs : List Byte) : IsHexOf (toHex bs) bs := by
  induction bs with
  | nil => exact ⟨rfl, by simp⟩
  | cons b bs ih =>
    obtain ⟨length, digits⟩ := ih
    rw [toHex_cons]
    refine ⟨by simp [length]; omega, fun i hi => ?_⟩
    cases i with
    | zero => exact ⟨rfl, rfl⟩
    | succ i => exact digits i (Nat.lt_of_succ_lt_succ hi)

/-! ### The exit status -/

/-- A fatal error never exits with 0 (R494). -/
theorem exitStatus_failed (e : HostError) : ∃ n, exitStatus (.failed e) = some n ∧ n ≠ 0 := by
  cases e <;> exact ⟨_, rfl, Nat.succ_ne_zero _⟩

end Sys2Proof.Machine

section

open Sys2Proof Sys2Proof.Machine

/-- Settles O60: each hash is kept and printed in turn, and `MATCH` is bit 6 of the `STATUS` then read. -/
theorem reportAndExit : Obligations.ReportAndExit :=
  ⟨fun _ fits empty => ⟨_, _, _, performStmts_reportLines fits empty, rfl, isHexOf_toHex _, isHexOf_toHex _⟩,
    rfl, rfl, exitStatus_failed⟩

end
end

section
/-! The error record (60_exceptions.md R530, R531): the flag bit of a code, and what recording the error makes the
registers read; and that no register reads the hidden state (R559). -/

namespace Sys2Proof.Machine

/-! ### Codes and flag bits -/

/-- The table of R530 is the model's `EngineError.code`. -/
theorem eq_code_of_mem_errorTable {e : EngineError} {n : Nat}
    (h : (e, n) ∈ [(EngineError.padStream, 1), (.padChecksum, 2), (.illegalCmd, 3), (.sequence, 4), (.busy, 5),
      (.locked, 6)]) : n = e.code := by
  cases e <;> simpa [EngineError.code] using h

theorem errorBit_getLsbD_code (e : EngineError) : (errorBit e).getLsbD e.code = true := by cases e <;> decide

theorem errflags_recordError_getLsbD_code (e : EngineError) (s : State) :
    (s.recordError e).errflags.getLsbD e.code = true := by
  rw [State.recordError_errflags, BitVec.getLsbD_or, errorBit_getLsbD_code, Bool.or_true]

/-- Any bit of `ERRFLAGS` sets `STATUS.ERR` (R54). -/
theorem errBitSet_of_errflags_getLsbD {s : State} {n : Nat} (h : s.errflags.getLsbD n = true) :
    s.errBitSet = true := by
  rw [State.errBitSet, bne_iff_ne]
  intro allZero
  simp [allZero] at h

/-! ### The hidden state -/

/-- No row of the read table looks at `KEY`, `CHAIN`, the latches, `HSTATE` or `HBUF` (R559). -/
theorem readRegister_hidden (s : State) (k lk lc : Bytes 32) (ch li ld : Bytes 16) (h : HashState) (b : List Byte)
    (r : RegName) :
    readRegister { s with key := k, chain := ch, lKey := lk, lIv := li, lDin := ld, lCk := lc, hstate := h, hbuf := b } r
      = readRegister s r := by
  cases r with
  | key _ => rfl
  | status => simp only [readRegister, State.statusWord, State.errBitSet]
  | _ => rfl

end Sys2Proof.Machine

section

open Sys2Proof Sys2Proof.Machine

/-- Settles O7: the record itself is the definition; the bit of the code is then 1, and so `STATUS.ERR` is. -/
theorem errorRecord : Obligations.ErrorRecord := by
  intro s e n h
  obtain rfl := eq_code_of_mem_errorTable h
  have flagged := errflags_recordError_getLsbD_code e s
  exact ⟨rfl, rfl, flagged, errBitSet_of_errflags_getLsbD flagged⟩

/-- Settles O33: register by register, and `irq` is a function of `INT_STATUS` and `INT_EN` alone. -/
theorem hiddenStateUnreadable : Obligations.HiddenStateUnreadable := fun s k lk lc ch li ld h b =>
  ⟨fun _ => readOffset_congr fun r _ => readRegister_hidden s k lk lc ch li ld h b r, rfl⟩

end
end
